-- ==== Sys2Proof/Word.lean ====
section
/-! DEFINITION. The 8-bit value every register, immediate and RAM cell holds (spec R2, R6), and the four bytes
of one instruction as they stand in the program (R5, R50). -/

namespace Sys2Proof

/-- Every value in the machine is an 8-bit pattern (R6). -/
abbrev Byte := BitVec 8

/-- One instruction: `B0` = OPCODE, `B1` = OPERAND1, `B2` = OPERAND2, `B3` = DEST (R5, R50).
One slot of the program store holds one such value (R22, R28). -/
structure InstrBytes where
  b0 : Byte
  b1 : Byte
  b2 : Byte
  b3 : Byte
deriving DecidableEq, Repr

end Sys2Proof
end

