-- ==== Sys2Proof/Config.lean ====
section
/-! DEFINITION. The parameters the spec leaves to the model (spec R3), each with every value R3 lists. They are plain
data carried by a state in its field `cfg`, which no instruction writes, so that a claim about every state is a claim
about every parameter value. The defaults are `Config.default` in Decode.lean. `CLASS3_POLICY`, `STACK_FAULTS` and
`FETCH_PAST_END` have the one value `fault` and so no field. -/

namespace Sys2Proof

/-- `BIT7_POLICY` (R52, D2): what a set opcode bit 7 does. -/
inductive Bit7Policy | fault | ignore
deriving DecidableEq, Repr

/-- `REGIDX_POLICY` (R57, D4): what a used register field above 7 does. -/
inductive RegIdxPolicy | fault | low3
deriving DecidableEq, Repr

/-- `R6_POLICY` (R14, D5): what naming `r6` in a used register field does. -/
inductive R6Policy | fault | documented
deriving DecidableEq, Repr

/-- `MOV_I2_POLICY` (R60, D6): what `MOV` with opcode bit 5 set does. -/
inductive MovI2Policy | fault | ignore
deriving DecidableEq, Repr

/-- `PC_READ` (R20, D7): what a read of `r7` returns in slot `A`: `A + 1` or `A`. -/
inductive PcRead | next | current
deriving DecidableEq, Repr

/-- `PC_WRAP` (R21, D8): what PC arithmetic outside 0 to 255 does. -/
inductive PcWrap | wrap | fault
deriving DecidableEq, Repr

/-- `JUMP_TARGET` (R101, D9): where a `COND` jump takes its target from. -/
inductive JumpTarget | destRegister | destLiteral | op1Value
deriving DecidableEq, Repr

/-- `NOT_KIND` (R88, D11): what `!OP1` means. -/
inductive NotKind | bitwise | logical
deriving DecidableEq, Repr

/-- `WRT_FMT_POLICY` (R124, D16): what a `WRT` format value above 3 does. -/
inductive WrtFmtPolicy | fault | low2
deriving DecidableEq, Repr

/-- `RESET_REGS` (R30, D20): `undef` gives `r0` to `r4` no defined value after reset; the model draws one for each, and the
drawn values stand here, so that a claim about every `Config` is a claim about every draw. `zero` makes all five `0x00`. -/
inductive ResetRegs
  | undef (d0 d1 d2 d3 d4 : Byte)
  | zero
deriving DecidableEq, Repr

/-- One value for each open parameter of R3. -/
structure Config where
  bit7       : Bit7Policy
  regIdx     : RegIdxPolicy
  r6         : R6Policy
  movI2      : MovI2Policy
  pcRead     : PcRead
  pcWrap     : PcWrap
  jumpTarget : JumpTarget
  notKind    : NotKind
  /-- `STACK_DEPTH` (R25, D13): the most bytes the stack holds; `none` is "unbounded". -/
  stackDepth : Option Nat
  wrtFmt     : WrtFmtPolicy
  /-- `RESET_PC` (R30, D20). -/
  resetPc    : Byte
  resetRegs  : ResetRegs
deriving DecidableEq, Repr

end Sys2Proof
end

