-- ==== Sys2Proof/Syntax.lean ====
section
/-! DEFINITION. The instructions, one constructor for each of the 24 rows of spec/opcode_table.json (spec R65), with the
fields each uses (R64). A field an instruction ignores (R59, R60) has no place in the syntax. -/

namespace Sys2Proof

/-- The eight register numbers (R10). `r4` is `RAMADDR`, `r5` `RAMDATA`, `r7` the program counter (R12, R13, R15). -/
inductive Reg | r0 | r1 | r2 | r3 | r4 | r5 | r6 | r7
deriving DecidableEq, Repr

/-- The three fields of an instruction that can name a register: bytes `B1`, `B2`, `B3` (R57). -/
inductive RegField | op1 | op2 | dest
deriving DecidableEq, Repr

/-- Operand 1 or 2: an immediate when its flag is set, else a register (R53, R56). -/
inductive Operand
  | imm (v : Byte)
  | reg (r : Reg)
deriving DecidableEq, Repr

/-- Where a jump takes its target from, the three readings of R101: the register DEST names, the DEST byte itself, or
(for `JMP` only) operand 1. `JUMP_TARGET` decides which one the decoder builds. -/
inductive Target
  | reg (r : Reg)
  | literal (slot : Byte)
  | op1 (o : Operand)
deriving DecidableEq, Repr

/-- The 24 instructions (R65). -/
inductive Instr
  -- ALU class (R81 to R88)
  | and (a b : Operand) (d : Reg)
  | ror (a b : Operand) (d : Reg)
  | add (a b : Operand) (d : Reg)
  | xor (a b : Operand) (d : Reg)
  | or (a b : Operand) (d : Reg)
  | rol (a b : Operand) (d : Reg)
  | sub (a b : Operand) (d : Reg)
  | not (a : Operand) (d : Reg)
  -- COND class (R102 to R109)
  | jmp (t : Target)
  | jne (a b : Operand) (t : Target)
  | jge (a b : Operand) (t : Target)
  | jgt (a b : Operand) (t : Target)
  | nop
  | jeq (a b : Operand) (t : Target)
  | jlt (a b : Operand) (t : Target)
  | jle (a b : Operand) (t : Target)
  -- IO class (R120 to R130)
  | mov (a : Operand) (d : Reg)
  | swap (a d : Reg)
  | push (a : Operand)
  | pop (d : Reg)
  | wrt (a b : Operand)
  | call (a : Operand)
  | jre
  | hcf
deriving DecidableEq, Repr

end Sys2Proof
end

