-- ==== Sys2Proof/WellFormed.lean ====
section
/-! DEFINITION. Which instructions a decoder can produce under a given choice of parameters: `r6` only where `R6_POLICY`
allows it (spec R14, R57), and a jump target only in the form `JUMP_TARGET` selects (R101). -/

namespace Sys2Proof

/-- A used register field may name this register (R14): any but `r6`, and `r6` too under `documented`. -/
def Reg.allowed (c : Config) (r : Reg) : Bool :=
  r != .r6 || c.r6 == .documented

/-- An immediate is always legal; a register must be allowed (R56, R57). -/
def Operand.wf (c : Config) : Operand → Bool
  | .imm _ => true
  | .reg r => r.allowed c

/-- The target form of a comparing jump (R101). Under `op1_value`, which exists for `JMP` only, a comparing jump keeps the
default reading (DESIGN CHOICE, log 7). -/
def Target.wf (c : Config) : Target → Bool
  | .reg r => r.allowed c && c.jumpTarget != .destLiteral
  | .literal _ => c.jumpTarget == .destLiteral
  | .op1 _ => false

/-- The target form of `JMP` (R101, R102). -/
def Target.wfJmp (c : Config) : Target → Bool
  | .reg r => r.allowed c && c.jumpTarget == .destRegister
  | .literal _ => c.jumpTarget == .destLiteral
  | .op1 o => o.wf c && c.jumpTarget == .op1Value

/-- A decoder with parameters `c` can produce this instruction. -/
def Instr.wf (c : Config) : Instr → Bool
  | .and a b d => a.wf c && b.wf c && d.allowed c
  | .ror a b d => a.wf c && b.wf c && d.allowed c
  | .add a b d => a.wf c && b.wf c && d.allowed c
  | .xor a b d => a.wf c && b.wf c && d.allowed c
  | .or a b d => a.wf c && b.wf c && d.allowed c
  | .rol a b d => a.wf c && b.wf c && d.allowed c
  | .sub a b d => a.wf c && b.wf c && d.allowed c
  | .not a d => a.wf c && d.allowed c
  | .jmp t => t.wfJmp c
  | .jne a b t => a.wf c && b.wf c && t.wf c
  | .jge a b t => a.wf c && b.wf c && t.wf c
  | .jgt a b t => a.wf c && b.wf c && t.wf c
  | .nop => true
  | .jeq a b t => a.wf c && b.wf c && t.wf c
  | .jlt a b t => a.wf c && b.wf c && t.wf c
  | .jle a b t => a.wf c && b.wf c && t.wf c
  | .mov a d => a.wf c && d.allowed c
  | .swap a d => a.allowed c && d.allowed c
  | .push a => a.wf c
  | .pop d => d.allowed c
  | .wrt a b => a.wf c && b.wf c
  | .call a => a.wf c
  | .jre => true
  | .hcf => true

end Sys2Proof
end

