-- ==== Sys2Proof/Decode.lean ====
section
/-! DEFINITION. The default parameters (spec R3); the decoder from the four bytes of an instruction to an `Instr` or a named
error (R50 to R65), and the encoder written from the same map. The default parameters stand here so that a
repair can change one of them. -/

namespace Sys2Proof

/-- The defaults of R3. `STACK_DEPTH` is OPEN there: 256, the depth the spec's vectors use (DESIGN CHOICE, log 2). The values
drawn for `r0` to `r4` are 0 (DESIGN CHOICE, log 1). -/
def Config.default : Config where
  bit7       := .fault
  regIdx     := .fault
  r6         := .fault
  movI2      := .fault
  pcRead     := .next
  pcWrap     := .wrap
  jumpTarget := .destRegister
  notKind    := .bitwise
  stackDepth := some 256
  wrtFmt     := .fault
  resetPc    := 0x00
  resetRegs  := .undef 0x00 0x00 0x00 0x00 0x00

/-- Why an opcode byte selects no instruction (R151, R152 item 2). -/
inductive IllegalReason
  /-- Opcode bit 7 is set and `BIT7_POLICY = fault` (R52). -/
  | bit7
  /-- The class bits are `11` (R62). -/
  | class3
  /-- `MOV` with `i2 = 1` under `MOV_I2_POLICY = fault`, or `SWAP` with `i1 = 1` (R60). -/
  | fixedFlag
deriving DecidableEq, Repr

/-- The decode faults (R151), with the diagnosis a model may attach. -/
inductive DecodeError
  | illegalInstruction (why : IllegalReason)
  | illegalOperand (f : RegField)
  | reservedRegister (f : RegField)
deriving DecidableEq, Repr

/-! ## The fields of the opcode byte (R51) -/

/-- Bit 7, `rsv`. -/
def rsvBit (b0 : Byte) : Bool := b0.getLsbD 7
/-- Bit 6, `i1`: operand 1 is an immediate (R53). -/
def flag1 (b0 : Byte) : Bool := b0.getLsbD 6
/-- Bit 5, `i2`: operand 2 is an immediate (R53). -/
def flag2 (b0 : Byte) : Bool := b0.getLsbD 5
/-- Bits 4:3, `class` (R54). -/
def classOf (b0 : Byte) : BitVec 2 := b0.extractLsb' 3 2
/-- Bits 2:0, `sub` (R55). -/
def subOf (b0 : Byte) : BitVec 3 := b0.extractLsb' 0 3

/-! ## Register fields (R57) -/

/-- Register number 0 to 7; nothing above (R10). -/
def regOfNumber : Nat → Option Reg
  | 0 => some .r0
  | 1 => some .r1
  | 2 => some .r2
  | 3 => some .r3
  | 4 => some .r4
  | 5 => some .r5
  | 6 => some .r6
  | 7 => some .r7
  | _ => none

/-- The register a field's byte names under `REGIDX_POLICY` (R57). -/
def regOfByte (c : Config) (b : Byte) : Option Reg :=
  match c.regIdx with
  | .fault => regOfNumber b.toNat
  | .low3 => regOfNumber (b.toNat % 8)

/-- A used register field: above 7 faults first, then `r6` by its policy (R57, R152 item 3). -/
def decodeReg (c : Config) (f : RegField) (b : Byte) : Except DecodeError Reg :=
  match regOfByte c b with
  | none => .error (.illegalOperand f)
  | some r => if r.allowed c then .ok r else .error (.reservedRegister f)

/-- A used operand: the byte itself if its flag is set, else a register field (R56). -/
def decodeOperand (c : Config) (f : RegField) (imm : Bool) (b : Byte) : Except DecodeError Operand :=
  if imm then .ok (.imm b) else (decodeReg c f b).map .reg

/-- Operand 1 of an instruction that uses it. -/
def decodeOp1 (c : Config) (w : InstrBytes) : Except DecodeError Operand :=
  decodeOperand c .op1 (flag1 w.b0) w.b1

/-- Operand 2 of an instruction that uses it. -/
def decodeOp2 (c : Config) (w : InstrBytes) : Except DecodeError Operand :=
  decodeOperand c .op2 (flag2 w.b0) w.b2

/-- DEST of an instruction that uses it as a register (R58). -/
def decodeDest (c : Config) (w : InstrBytes) : Except DecodeError Reg :=
  decodeReg c .dest w.b3

/-- The target of a comparing jump (R101; `op1_value` as in log 7). -/
def decodeTarget (c : Config) (w : InstrBytes) : Except DecodeError Target :=
  match c.jumpTarget with
  | .destLiteral => .ok (.literal w.b3)
  | .destRegister => (decodeDest c w).map .reg
  | .op1Value => (decodeDest c w).map .reg

/-- The target of `JMP` (R101, R102). Under `op1_value` only operand 1 is used (log 7). -/
def decodeJmpTarget (c : Config) (w : InstrBytes) : Except DecodeError Target :=
  match c.jumpTarget with
  | .destLiteral => .ok (.literal w.b3)
  | .destRegister => (decodeDest c w).map .reg
  | .op1Value => (decodeOp1 c w).map .op1

/-! ## Shapes of field use (R64), checked in the order `B1`, `B2`, `B3` (R152 item 3) -/

/-- OP1, OP2 and DEST used. -/
def decodeOpOpReg (c : Config) (w : InstrBytes) (mk : Operand → Operand → Reg → Instr) : Except DecodeError Instr := do
  let a ← decodeOp1 c w
  let b ← decodeOp2 c w
  let d ← decodeDest c w
  return mk a b d

/-- OP1, OP2 and a jump target used. -/
def decodeOpOpTarget (c : Config) (w : InstrBytes) (mk : Operand → Operand → Target → Instr) :
    Except DecodeError Instr := do
  let a ← decodeOp1 c w
  let b ← decodeOp2 c w
  let t ← decodeTarget c w
  return mk a b t

/-- OP1 and DEST used. -/
def decodeOpReg (c : Config) (w : InstrBytes) (mk : Operand → Reg → Instr) : Except DecodeError Instr := do
  let a ← decodeOp1 c w
  let d ← decodeDest c w
  return mk a d

/-! ## The opcode map (R65) -/

/-- Class `00`, `ALU` (R54, R65). `VAL` governs `ROR` and `OR` (R55, C1, C2). -/
def decodeAlu (c : Config) (w : InstrBytes) : Except DecodeError Instr :=
  match (subOf w.b0).toNat with
  | 0 => decodeOpOpReg c w .and
  | 1 => decodeOpOpReg c w .ror
  | 2 => decodeOpOpReg c w .add
  | 3 => decodeOpOpReg c w .xor
  | 4 => decodeOpOpReg c w .or
  | 5 => decodeOpOpReg c w .rol
  | 6 => decodeOpOpReg c w .sub
  | _ => decodeOpReg c w .not

/-- Class `01`, `COND` (R54, R65). -/
def decodeCond (c : Config) (w : InstrBytes) : Except DecodeError Instr :=
  match (subOf w.b0).toNat with
  | 0 => (decodeJmpTarget c w).map .jmp
  | 1 => decodeOpOpTarget c w .jne
  | 2 => decodeOpOpTarget c w .jge
  | 3 => decodeOpOpTarget c w .jgt
  | 4 => .ok .nop
  | 5 => decodeOpOpTarget c w .jeq
  | 6 => decodeOpOpTarget c w .jlt
  | _ => decodeOpOpTarget c w .jle

/-- `MOV`: `i2` must be 0 (R60, `MOV_I2_POLICY`). -/
def decodeMov (c : Config) (w : InstrBytes) : Except DecodeError Instr :=
  if flag2 w.b0 && c.movI2 == .fault then .error (.illegalInstruction .fixedFlag)
  else decodeOpReg c w .mov

/-- `SWAP`: `i1` must be 0, so operand 1 is a register (R60, R121). -/
def decodeSwap (c : Config) (w : InstrBytes) : Except DecodeError Instr :=
  if flag1 w.b0 then .error (.illegalInstruction .fixedFlag)
  else do
    let a ← decodeReg c .op1 w.b1
    let d ← decodeDest c w
    return .swap a d

/-- `WRT`: OP1 and OP2 used (R124). -/
def decodeWrt (c : Config) (w : InstrBytes) : Except DecodeError Instr := do
  let a ← decodeOp1 c w
  let b ← decodeOp2 c w
  return .wrt a b

/-- Class `10`, `IO` (R54, R65). -/
def decodeIo (c : Config) (w : InstrBytes) : Except DecodeError Instr :=
  match (subOf w.b0).toNat with
  | 0 => decodeMov c w
  | 1 => decodeSwap c w
  | 2 => (decodeOp1 c w).map .push
  | 3 => (decodeDest c w).map .pop
  | 4 => decodeWrt c w
  | 5 => (decodeOp1 c w).map .call
  | 6 => .ok .jre
  | _ => .ok .hcf

/-- The decoder, total on any four bytes (R63): bit 7, then the class, then the row (R65). -/
def decode (c : Config) (w : InstrBytes) : Except DecodeError Instr :=
  if rsvBit w.b0 && c.bit7 == .fault then .error (.illegalInstruction .bit7)
  else match (classOf w.b0).toNat with
    | 0 => decodeAlu c w
    | 1 => decodeCond c w
    | 2 => decodeIo c w
    | _ => .error (.illegalInstruction .class3)

/-! ## The word of the opcode table (R5) -/

/-- The four bytes of the word `W = B0 ‖ B1 ‖ B2 ‖ B3`, `B0` in bits 31:24 (R5). -/
def InstrBytes.ofWord (w : BitVec 32) : InstrBytes :=
  ⟨w.extractLsb' 24 8, w.extractLsb' 16 8, w.extractLsb' 8 8, w.extractLsb' 0 8⟩

/-- The word of four bytes (R5). -/
def InstrBytes.toWord (b : InstrBytes) : BitVec 32 :=
  b.b0 ++ b.b1 ++ b.b2 ++ b.b3

/-- The instruction bytes the opcode table's low `nbits` bits of `w` stand for, every bit above `nbits` being 0. -/
def InstrBytes.ofTableWord (nbits w : Nat) : InstrBytes :=
  .ofWord (BitVec.ofNat 32 (w % 2 ^ nbits))

/-- What the decoder reads from a word of the opcode table, under the default parameters. -/
def decodeTableWord (nbits w : Nat) : Option Instr :=
  (decode Config.default (.ofTableWord nbits w)).toOption

/-! ## The encoder (R65, R68) -/

/-- A register encodes as its number (R68). -/
def Reg.number : Reg → Byte
  | .r0 => 0
  | .r1 => 1
  | .r2 => 2
  | .r3 => 3
  | .r4 => 4
  | .r5 => 5
  | .r6 => 6
  | .r7 => 7

/-- The immediate flag an operand sets (R53, R69). -/
def Operand.flag : Operand → Bool
  | .imm _ => true
  | .reg _ => false

/-- The operand byte (R56). -/
def Operand.byte : Operand → Byte
  | .imm v => v
  | .reg r => r.number

/-- An opcode byte: the base of R65 with `i1` in bit 6 and `i2` in bit 5, bit 7 zero (R52, R65). -/
def opcode (base : Byte) (i1 i2 : Bool) : Byte :=
  base ||| (if i1 then 0x40 else 0x00) ||| (if i2 then 0x20 else 0x00)

/-- The bytes of an instruction with two operands and a DEST byte. -/
def encodeOpOp (base : Byte) (a b : Operand) (dest : Byte) : InstrBytes :=
  ⟨opcode base a.flag b.flag, a.byte, b.byte, dest⟩

/-- The bytes of an instruction with operand 1 and a DEST byte; operand 2 ignored and canonically 0 (R59, R60). -/
def encodeOp (base : Byte) (a : Operand) (dest : Byte) : InstrBytes :=
  ⟨opcode base a.flag false, a.byte, 0x00, dest⟩

/-- The DEST byte of a jump: the register's number, the literal slot, or the ignored field's 0 (R59, R101). -/
def Target.destByte : Target → Byte
  | .reg r => r.number
  | .literal n => n
  | .op1 _ => 0x00

/-- The bytes of `JMP`: operand 1 is ignored and 0 unless the target stands there (R101, R102). -/
def encodeJmp : Target → InstrBytes
  | .reg r => ⟨0x08, 0x00, 0x00, r.number⟩
  | .literal n => ⟨0x08, 0x00, 0x00, n⟩
  | .op1 o => encodeOp 0x08 o 0x00

/-- The canonical bytes of an instruction (R65; ignored fields and flags 0, R59, R60). -/
def encode : Instr → InstrBytes
  | .and a b d => encodeOpOp 0x00 a b d.number
  | .ror a b d => encodeOpOp 0x01 a b d.number
  | .add a b d => encodeOpOp 0x02 a b d.number
  | .xor a b d => encodeOpOp 0x03 a b d.number
  | .or a b d => encodeOpOp 0x04 a b d.number
  | .rol a b d => encodeOpOp 0x05 a b d.number
  | .sub a b d => encodeOpOp 0x06 a b d.number
  | .not a d => encodeOp 0x07 a d.number
  | .jmp t => encodeJmp t
  | .jne a b t => encodeOpOp 0x09 a b t.destByte
  | .jge a b t => encodeOpOp 0x0A a b t.destByte
  | .jgt a b t => encodeOpOp 0x0B a b t.destByte
  | .nop => ⟨0x0C, 0x00, 0x00, 0x00⟩
  | .jeq a b t => encodeOpOp 0x0D a b t.destByte
  | .jlt a b t => encodeOpOp 0x0E a b t.destByte
  | .jle a b t => encodeOpOp 0x0F a b t.destByte
  | .mov a d => encodeOp 0x10 a d.number
  | .swap a d => ⟨0x11, a.number, 0x00, d.number⟩
  | .push a => encodeOp 0x12 a 0x00
  | .pop d => ⟨0x13, 0x00, 0x00, d.number⟩
  | .wrt a b => encodeOpOp 0x14 a b 0x00
  | .call a => encodeOp 0x15 a 0x00
  | .jre => ⟨0x16, 0x00, 0x00, 0x00⟩
  | .hcf => ⟨0x17, 0x00, 0x00, 0x00⟩

end Sys2Proof
end

