-- ==== Sys2Proof/Machine/State.lean ====
section
/-! DEFINITION. The state of the machine (spec R10 to R30), the reasons a step can stop (R151), and the state after reset
(R30, R170). -/

namespace Sys2Proof.Machine

/-- RAM (R29): the bytes that differ from what an unlisted address reads as, by address. The operations over it, its canonical
form `Memory.wf` and what an unlisted address reads as are in Ops.lean. -/
abbrev Memory := List Host.Cell

/-- One event of the terminal (R26): a character, by its ASCII code (R125, K2), or a clear. -/
inductive TermEvent
  | char (code : Byte)
  | clear
deriving DecidableEq, Repr

/-- The four output formats of `WRT` (R125). -/
inductive WrtFormat | ascii | decimal | alphabetic | hexadecimal
deriving DecidableEq, Repr

/-- The fault kinds of R151. Each stops the machine with the state as it was before the step (R150); none is architected. Every
one is safe: the spec faults where its source is silent, and a fault proves nothing of the chip (D24). `UnwrittenRegister`
is not among them: this model draws a value for a register nothing has written (log 1). -/
inductive Fault
  /-- Raised by the fetch: `pc` selects a slot at or above `PROG_LEN` (R28). Safe. -/
  | fetchOutsideProgram (pc : Byte)
  /-- Raised by decode: bit 7 set, class `11`, or a fixed flag of `MOV` or `SWAP` (R52, R60, R62). Safe. -/
  | illegalInstruction (why : IllegalReason)
  /-- Raised by decode: a used register field above 7 (R57). Safe. -/
  | illegalOperand (f : RegField)
  /-- Raised by decode, and by every meaning given an instruction that names `r6` under `R6_POLICY = fault` (R14, R16, R17).
  Safe. -/
  | reservedRegister (f : RegField)
  /-- Raised by `WRT` with a format above 3 under `WRT_FMT_POLICY = fault` (R124). Safe. -/
  | illegalWrtFormat (fmt : Byte)
  /-- Raised by `PUSH` and `CALL` on a full stack (R25). Safe. -/
  | stackOverflow
  /-- Raised by `POP` on an empty stack (R25). Safe. -/
  | stackUnderflow
  /-- Raised, under `PC_WRAP = fault` only, by the automatic advance from slot `0xFF` and by a `JRE` sum outside 0 to 255
  (R21, R129). Safe. -/
  | pcWrap
deriving DecidableEq, Repr

/-- Why the model gives an instruction no meaning. -/
inductive Refusal
  /-- Raised by an arm of `exec` for an instruction without a meaning yet; every instruction has one, so by nothing. Safe. -/
  | notModelled (mnemonic : String)
deriving DecidableEq, Repr

/-- The state of R172, with the program store (R28) and the parameters (R3), which no instruction writes. -/
structure State where
  /-- `R[0]` to `R[3]`, general purpose (R10, R11). -/
  r0 : Byte
  r1 : Byte
  r2 : Byte
  r3 : Byte
  /-- `R[4]`, `RAMADDR` (R12). -/
  r4 : Byte
  /-- `r7`, the program counter: between steps, the slot of the next instruction (R15, R20). -/
  pc : Byte
  /-- The 256 bytes of RAM (R29). -/
  ram : Memory
  /-- `STACK`, top first (R25). -/
  stack : List Byte
  /-- `TERM`, in the order issued (R26). -/
  term : List TermEvent
  /-- `HALTED` (R27). -/
  halted : Bool
  /-- `PROG`: slot `n` is the `n`-th entry, and `PROG_LEN` the length (R28). -/
  prog : List InstrBytes
  /-- The parameters of R3. -/
  cfg : Config
deriving DecidableEq, Repr

/-- How a step ends. -/
abbrev Result := Host.Outcome State Fault Refusal

/-- Reset with parameters `c` and launch program `p` (R30, R170): RAM zero, `pc` at `RESET_PC`, stack and terminal empty, not
halted, the program as loaded, and `r0` to `r4` as `RESET_REGS` says. -/
def State.launch (c : Config) (p : List InstrBytes) : State :=
  match c.resetRegs with
  | .undef d0 d1 d2 d3 d4 => ⟨d0, d1, d2, d3, d4, c.resetPc, [], [], [], false, p, c⟩
  | .zero => ⟨0x00, 0x00, 0x00, 0x00, 0x00, c.resetPc, [], [], [], false, p, c⟩

/-- The machine right after reset, under the default parameters (DESIGN CHOICE, log 1, 2, 5, 15), with no program loaded yet
(DESIGN CHOICE, log 4). -/
def State.reset : State := State.launch Config.default []

end Sys2Proof.Machine
end

