-- ==== Sys2Proof/Machine/Flags.lean ====
section
/-! DEFINITION. The computations of the instructions on 8-bit values. The machine has no flags (spec R24): no computation
records a carry, borrow, overflow, zero or sign (R89), and a comparison is made inside the jump that uses it (R100). -/

namespace Sys2Proof.Machine

/-- `ror8(v, n)`: `n` single rotations toward bit 0, so `n mod 8` of them (R82, D12, K1; DEDUCED, log 10). -/
def ror8 (v n : Byte) : Byte :=
  let k := n.toNat % 8
  if k = 0 then v else (v >>> k) ||| (v <<< (8 - k))

/-- `rol8(v, n)`: `n` single rotations toward bit 7 (R86, D12, K1). -/
def rol8 (v n : Byte) : Byte :=
  let k := n.toNat % 8
  if k = 0 then v else (v <<< k) ||| (v >>> (8 - k))

/-- The result of `NOT` (R88): the bitwise complement, or under `NOT_KIND = logical` whether the value is zero. -/
def notResult (k : NotKind) (v : Byte) : Byte :=
  match k with
  | .bitwise => v ^^^ 0xFF
  | .logical => if v = 0x00 then 0x01 else 0x00

/-- `>=u` (R104). -/
def geU (v w : Byte) : Bool := decide (w.toNat ≤ v.toNat)
/-- `>u` (R105). -/
def gtU (v w : Byte) : Bool := decide (w.toNat < v.toNat)
/-- `<u` (R108). -/
def ltU (v w : Byte) : Bool := decide (v.toNat < w.toNat)
/-- `<=u` (R109). -/
def leU (v w : Byte) : Bool := decide (v.toNat ≤ w.toNat)

/-- The sum `base + off` of `JRE`, exact, the offset read as two's complement (R129, R6). -/
def jreSum (base off : Byte) : Int := base.toNat + off.toInt

/-- The output format of an operand 2 value (R124): 0 to 3, and above 3 by `WRT_FMT_POLICY`: nothing, or its bits 1:0. -/
def wrtFormat (p : WrtFmtPolicy) (v : Byte) : Option WrtFormat :=
  let n := match p with
    | .fault => v.toNat
    | .low2 => v.toNat % 4
  match n with
  | 0 => some .ascii
  | 1 => some .decimal
  | 2 => some .alphabetic
  | 3 => some .hexadecimal
  | _ => none

/-- The code of `?` (R126, K2). -/
def questionMark : Byte := 0x3F

/-- The one event `WRT` appends (R124 to R127, codes K2; DEDUCED, log 11). -/
def wrtEvent (fmt : WrtFormat) (v : Byte) : TermEvent :=
  match fmt with
  | .ascii => if v = 0x00 then .clear else if v.toNat ≤ 0x7F then .char v else .char questionMark
  | .decimal => if v.toNat ≤ 0x09 then .char (0x30 + v) else .char questionMark
  | .alphabetic => if v.toNat ≤ 0x19 then .char (0x41 + v) else .char questionMark
  | .hexadecimal =>
    if v.toNat ≤ 0x09 then .char (0x30 + v)
    else if v.toNat ≤ 0x0F then .char (0x37 + v)
    else .char questionMark

end Sys2Proof.Machine
end

