-- ==== Sys2Proof/Machine/Ops.lean ====
section
/-! DEFINITION. The named operations over RAM (spec R31, R32), the stack (R25), the terminal (R26), the program counter (R20,
R21) and the program store (R28). There is no exception to take and none to return from (R150, R153, R154): a fault
stops the machine, and the outcome `fault` of a step is the faulted state of R150, the state before the step kept (log 6). -/

namespace Sys2Proof.Machine

/-! ## RAM -/

/-- What a byte of RAM nothing has written reads as: "The memory is initialized to zero on startup" (R30; DEDUCED, log 9). -/
def Memory.unlisted : Byte := 0x00

/-- `RAM[a]` (R31). -/
def Memory.read : Memory → Nat → Byte
  | [], _ => Memory.unlisted
  | (b, v) :: rest, a => if b = a then v else Memory.read rest a

/-- Put a cell before the first one of a higher address. -/
def Memory.insert : Memory → Nat → Byte → Memory
  | [], a, v => [(a, v)]
  | (b, w) :: rest, a, v => if a < b then (a, v) :: (b, w) :: rest else (b, w) :: Memory.insert rest a v

/-- `RAM[a] <- v` (R32). The cell of `a` is taken out, and put back in its place unless `v` is what an unlisted address
reads as. -/
def Memory.write (m : Memory) (a : Nat) (v : Byte) : Memory :=
  let rest := m.filter fun cell => cell.1 != a
  if v = Memory.unlisted then rest else Memory.insert rest a v

/-- The canonical form: addresses strictly rising and below `RAM_SIZE = 256` (R2), no cell holding what an unlisted address
reads as. -/
def Memory.wf (m : Memory) : Bool :=
  decide (m.Pairwise fun x y => x.1 < y.1) && m.all fun cell => decide (cell.1 < 256) && cell.2 != Memory.unlisted

/-! ## Updates of one field -/

def State.setR0 (s : State) (v : Byte) : State := { s with r0 := v }
def State.setR1 (s : State) (v : Byte) : State := { s with r1 := v }
def State.setR2 (s : State) (v : Byte) : State := { s with r2 := v }
def State.setR3 (s : State) (v : Byte) : State := { s with r3 := v }
def State.setR4 (s : State) (v : Byte) : State := { s with r4 := v }
def State.setPc (s : State) (v : Byte) : State := { s with pc := v }
def State.setRam (s : State) (m : Memory) : State := { s with ram := m }
def State.setStack (s : State) (l : List Byte) : State := { s with stack := l }
def State.setTerm (s : State) (l : List TermEvent) : State := { s with term := l }
def State.setHalted (s : State) (h : Bool) : State := { s with halted := h }
def State.setProg (s : State) (p : List InstrBytes) : State := { s with prog := p }
def State.setCfg (s : State) (c : Config) : State := { s with cfg := c }

/-! ## The program counter -/

/-- The slot after the instruction being executed, `(A + 1) mod 256` (R20, R21); `s.pc` is `A`. -/
def State.nextPc (s : State) : Byte := s.pc + 1

/-- The automatic advance of an instruction that does not write `pc` (R21): from slot `0xFF` it goes to slot `0x00`, or
faults under `PC_WRAP = fault`. A meaning makes it last, on the state it has already updated otherwise, so its fault comes
after every other (R152 item 5). -/
def State.advance (s : State) : Result :=
  if s.cfg.pcWrap = .fault ∧ s.pc = 0xFF then .fault .pcWrap else .next (s.setPc s.nextPc)

/-! ## The stack (R25; apart from RAM by D13, DEDUCED, log 12) -/

/-- `length(STACK) >= STACK_DEPTH`. -/
def State.stackFull (s : State) : Bool :=
  match s.cfg.stackDepth with
  | none => false
  | some depth => decide (depth ≤ s.stack.length)

/-- `Push(v)`, then the rest of the instruction. -/
def State.push (s : State) (v : Byte) (rest : State → Result) : Result :=
  if s.stackFull then .fault .stackOverflow else rest (s.setStack (v :: s.stack))

/-- `v = Pop()`, then the rest of the instruction. -/
def State.pop (s : State) (rest : Byte → State → Result) : Result :=
  match s.stack with
  | [] => .fault .stackUnderflow
  | v :: below => rest v (s.setStack below)

/-! ## The terminal (R26; an event log by D18, DEDUCED, log 20) -/

/-- `Emit(c)` and `Clear()`: append one event. -/
def State.emit (s : State) (e : TermEvent) : State := s.setTerm (s.term ++ [e])

/-- The displayed text: the characters after the last `Clear` (R26). -/
def displayed : List TermEvent → List Byte :=
  List.foldl (fun shown e =>
    match e with
    | .char code => shown ++ [code]
    | .clear => []) []

/-! ## The program store (R28) -/

/-- The four bytes of the slot `pc` selects, if it is below `PROG_LEN` (R22, R28). -/
def State.fetch (s : State) : Option InstrBytes := s.prog[s.pc.toNat]?

/-- The program `p` with `w` in slot `n`; slots below `n` that did not exist hold four zero bytes. -/
def placeSlot : List InstrBytes → Nat → InstrBytes → List InstrBytes
  | [], 0, w => [w]
  | [], n + 1, w => ⟨0x00, 0x00, 0x00, 0x00⟩ :: placeSlot [] n w
  | _ :: p, 0, w => w :: p
  | x :: p, n + 1, w => x :: placeSlot p n w

/-- A reset the host applies during a run (R161, R170, R174): a new run of the same program under the same parameters. -/
def State.restart (s : State) : State := State.launch s.cfg s.prog

/-- The fault of a decode error (R151). -/
def faultOfDecode : DecodeError → Fault
  | .illegalInstruction why => .illegalInstruction why
  | .illegalOperand f => .illegalOperand f
  | .reservedRegister f => .reservedRegister f

end Sys2Proof.Machine
end

