-- ==== Sys2Proof/Machine/Operands.lean ====
section
/-! DEFINITION. Reading and writing registers under the special cases of `r5`, `r6`, `r7` (spec R16, R17), the values of
operands (R56) and of a jump's target (R101), and the writing back of a result. Everything is read from the state at the
start of the instruction, whose `pc` is `A` (R8). -/

namespace Sys2Proof.Machine

/-- What a read of `r7` returns (R20): `(A + 1) mod 256` under `PC_READ = next`, `A` under `current`. -/
def State.pcValue (s : State) : Byte :=
  match s.cfg.pcRead with
  | .next => s.nextPc
  | .current => s.pc

/-- `x[i]` (R16). `r5` reads `RAM[R[4]]` (R13); `r6` reads 0 under `R6_POLICY = documented`, and under `fault` no meaning
reads it (`State.guard`). -/
def State.readReg (s : State) : Reg → Byte
  | .r0 => s.r0
  | .r1 => s.r1
  | .r2 => s.r2
  | .r3 => s.r3
  | .r4 => s.r4
  | .r5 => s.ram.read s.r4.toNat
  | .r6 => 0x00
  | .r7 => s.pcValue

/-- `x[i] <- v` (R17), `a4` being `R[4]` before the instruction wrote anything (R33, D22; DEDUCED, log 14). A write of
`r6` does nothing under `documented`, and under `fault` no meaning makes one (`State.guard`). -/
def State.writeReg (s : State) (a4 : Byte) : Reg → Byte → State
  | .r0, v => s.setR0 v
  | .r1, v => s.setR1 v
  | .r2, v => s.setR2 v
  | .r3, v => s.setR3 v
  | .r4, v => s.setR4 v
  | .r5, v => s.setRam (s.ram.write a4.toNat v)
  | .r6, _ => s
  | .r7, v => s.setPc v

/-- `val1` or `val2` (R56). -/
def State.value (s : State) : Operand → Byte
  | .imm v => v
  | .reg r => s.readReg r

/-- The target of a jump (R101). -/
def State.target (s : State) : Target → Byte
  | .reg r => s.readReg r
  | .literal n => n
  | .op1 o => s.value o

/-- The register an operand names, with the field it stands in. -/
def operandRegs (f : RegField) : Operand → List (RegField × Reg)
  | .imm _ => []
  | .reg r => [(f, r)]

/-- The registers a jump target names, with their fields. -/
def targetRegs : Target → List (RegField × Reg)
  | .reg r => [(.dest, r)]
  | .literal _ => []
  | .op1 o => operandRegs .op1 o

/-- `Fault(ReservedRegister)` for the first used field that names `r6` where `R6_POLICY` forbids it (R14, R16, R17), else the
instruction. The decoder has already made this check on every instruction a step runs (R57). -/
def State.guard (s : State) (used : List (RegField × Reg)) (k : Result) : Result :=
  match used.find? fun u => !u.2.allowed s.cfg with
  | some u => .fault (.reservedRegister u.1)
  | none => k

/-- `x[DEST] <- v` as an instruction's last act: a DEST of `r7` is the jump itself (R23), any other leaves `pc` to the
automatic advance (R21). -/
def State.writeBack (s : State) (d : Reg) (v : Byte) : Result :=
  if d = .r7 then .next (s.setPc v) else (s.writeReg s.r4 d v).advance

/-- `if c then pc <- t`, else the automatic advance (R100, R21). -/
def State.jumpIf (s : State) (c : Bool) (t : Byte) : Result :=
  if c then .next (s.setPc t) else s.advance

end Sys2Proof.Machine
end

