-- ==== Sys2Proof/Machine/Alu.lean ====
section
/-! DEFINITION. The meanings of the `ALU` class (spec R80 to R90). -/

namespace Sys2Proof.Machine

/-- What the two-operand instructions of the class share: `x[DEST] <- f(val1, val2)` (R80). -/
def State.alu (s : State) (f : Byte → Byte → Byte) (a b : Operand) (d : Reg) : Result :=
  s.guard (operandRegs .op1 a ++ operandRegs .op2 b ++ [(.dest, d)]) (s.writeBack d (f (s.value a) (s.value b)))

/-- `AND` (R81). -/
def execAnd (a b : Operand) (d : Reg) (s : State) : Result := s.alu (fun v w => v &&& w) a b d
/-- `ROR` (R82). -/
def execRor (a b : Operand) (d : Reg) (s : State) : Result := s.alu ror8 a b d
/-- `ADD` (R83): modulo 256 (R89). -/
def execAdd (a b : Operand) (d : Reg) (s : State) : Result := s.alu (fun v w => v + w) a b d
/-- `XOR` (R84). -/
def execXor (a b : Operand) (d : Reg) (s : State) : Result := s.alu (fun v w => v ^^^ w) a b d
/-- `OR` (R85). -/
def execOr (a b : Operand) (d : Reg) (s : State) : Result := s.alu (fun v w => v ||| w) a b d
/-- `ROL` (R86). -/
def execRol (a b : Operand) (d : Reg) (s : State) : Result := s.alu rol8 a b d
/-- `SUB` (R87): modulo 256 (R89). -/
def execSub (a b : Operand) (d : Reg) (s : State) : Result := s.alu (fun v w => v - w) a b d
/-- `NOT` (R88): operand 2 ignored. -/
def execNot (a : Operand) (d : Reg) (s : State) : Result :=
  s.guard (operandRegs .op1 a ++ [(.dest, d)]) (s.writeBack d (notResult s.cfg.notKind (s.value a)))

end Sys2Proof.Machine
end

