-- ==== Sys2Proof/Machine/Cond.lean ====
section
/-! DEFINITION. The meanings of the `COND` class (spec R100 to R110). -/

namespace Sys2Proof.Machine

/-- What the comparing jumps share: `if c(val1, val2) then pc <- t` (R100); the used fields are checked whatever the
condition (R57). -/
def State.compareJump (s : State) (c : Byte → Byte → Bool) (a b : Operand) (t : Target) : Result :=
  s.guard (operandRegs .op1 a ++ operandRegs .op2 b ++ targetRegs t) (s.jumpIf (c (s.value a) (s.value b)) (s.target t))

/-- `JMP` (R102): always. -/
def execJmp (t : Target) (s : State) : Result := s.guard (targetRegs t) (s.jumpIf true (s.target t))
/-- `JNE` (R103). -/
def execJne (a b : Operand) (t : Target) (s : State) : Result := s.compareJump (fun v w => v != w) a b t
/-- `JGE` (R104). -/
def execJge (a b : Operand) (t : Target) (s : State) : Result := s.compareJump geU a b t
/-- `JGT` (R105). -/
def execJgt (a b : Operand) (t : Target) (s : State) : Result := s.compareJump gtU a b t
/-- `NOP` (R106): nothing but the automatic advance. -/
def execNop (s : State) : Result := s.advance
/-- `JEQ` (R107). -/
def execJeq (a b : Operand) (t : Target) (s : State) : Result := s.compareJump (fun v w => v == w) a b t
/-- `JLT` (R108). -/
def execJlt (a b : Operand) (t : Target) (s : State) : Result := s.compareJump ltU a b t
/-- `JLE` (R109). -/
def execJle (a b : Operand) (t : Target) (s : State) : Result := s.compareJump leU a b t

end Sys2Proof.Machine
end

