-- ==== Sys2Proof/Machine/Io.lean ====
section
/-! DEFINITION. The meanings of the `IO` class (spec R120 to R132). -/

namespace Sys2Proof.Machine

/-- `MOV` (R120). -/
def execMov (a : Operand) (d : Reg) (s : State) : Result :=
  s.guard (operandRegs .op1 a ++ [(.dest, d)]) (s.writeBack d (s.value a))

/-- `SWAP` (R121): both reads before either write, and a write of `r5` goes to the address `R[4]` held before (R33). The
automatic advance is made unless one of the two is `r7` (R21). -/
def execSwap (a d : Reg) (s : State) : Result :=
  let t := (s.writeReg s.r4 a (s.readReg d)).writeReg s.r4 d (s.readReg a)
  s.guard [(.op1, a), (.dest, d)] (if a = .r7 ∨ d = .r7 then .next t else t.advance)

/-- `PUSH` (R122). -/
def execPush (a : Operand) (s : State) : Result :=
  s.guard (operandRegs .op1 a) (s.push (s.value a) State.advance)

/-- `POP` (R123); with DEST `r7` it is the `RET` macro (R131). -/
def execPop (d : Reg) (s : State) : Result :=
  s.guard [(.dest, d)] (s.pop fun v t => t.writeBack d v)

/-- `WRT` (R124 to R127). -/
def execWrt (a b : Operand) (s : State) : Result :=
  s.guard (operandRegs .op1 a ++ operandRegs .op2 b)
    (match wrtFormat s.cfg.wrtFmt (s.value b) with
    | none => .fault (.illegalWrtFormat (s.value b))
    | some fmt => (s.emit (wrtEvent fmt (s.value a))).advance)

/-- `CALL` (R128, D14; DEDUCED, log 13 and 22): the return address is `(A + 1) mod 256` under either value of
`PC_READ`, and the target was read before the push. -/
def execCall (a : Operand) (s : State) : Result :=
  s.guard (operandRegs .op1 a) (s.push s.nextPc fun t => .next (t.setPc (s.value a)))

/-- `JRE` (R129): `pc <- (x[7] + r0) mod 256`, `r0` signed; a sum outside 0 to 255 faults under `PC_WRAP = fault`. -/
def execJre (s : State) : Result :=
  let sum := jreSum s.pcValue s.r0
  if s.cfg.pcWrap = .fault ∧ (sum < 0 ∨ 255 < sum) then .fault .pcWrap
  else .next (s.setPc (BitVec.ofInt 8 sum))

/-- `HCF` (R130): `HALTED` is set, and `pc` is left to the automatic advance (R21). -/
def execHcf (s : State) : Result := (s.setHalted true).advance

end Sys2Proof.Machine
end

