-- ==== Sys2Proof/Machine/Step.lean ====
section
/-! DEFINITION. One step of the machine (spec R172), and the placing of one instruction where it is fetched. -/

namespace Sys2Proof.Machine

/-- One step (R172): nothing while halted, the state answered as it is (R27; DESIGN CHOICE, log 8), else fetch (R28),
decode (R51 to R65) and execute. `exec` makes the advance of `pc` itself (R21), so on a fault the state is the one
before the step (R150). -/
def step (s : State) : Host.Outcome State Fault Refusal :=
  if s.halted then .next s
  else match s.fetch with
    | none => .fault (.fetchOutsideProgram s.pc)
    | some w =>
      match decode s.cfg w with
      | .error e => .fault (faultOfDecode e)
      | .ok i => exec i s

/-- `s` with the instruction of the opcode table's word `w` loaded in the slot `pc` selects, and not halted, so that the next
step runs it. It stands for the host's load of a program (R174, log 4). -/
def State.withFetchWord (s : State) (nbits w : Nat) : State :=
  (s.setProg (placeSlot s.prog s.pc.toNat (.ofTableWord nbits w))).setHalted false

end Sys2Proof.Machine
end

