-- ==== Sys2Proof/Safety.lean ====
section
/-! DEFINITION. How a run ends (spec R173), and the invariant of the machine's states. -/

namespace Sys2Proof.Machine

/-- `k` steps from `s`, stopping at the first fault. -/
def runFrom : Nat → State → Result
  | 0, s => .next s
  | k + 1, s =>
    match step s with
    | .next t => runFrom k t
    | stop => stop

/-- The run from `s` ends halted: after some number of steps `HALTED` is set (R173). -/
def EndsHalted (s : State) : Prop := ∃ k t, runFrom k s = .next t ∧ t.halted = true

/-- The run from `s` ends faulted with `f` (R150, R173). -/
def EndsFaulted (s : State) (f : Fault) : Prop := ∃ k, runFrom k s = .fault f

/-- The run from `s` never ends (R173). -/
def NeverEnds (s : State) : Prop := ∀ k, ∃ t, runFrom k s = .next t ∧ t.halted = false

/-- What every state of a run satisfies: RAM in its canonical form (R29), at most 256 slots in the program store (R28), and a
stack within `STACK_DEPTH` (R25). -/
def State.Inv (s : State) : Prop :=
  s.ram.wf = true ∧ s.prog.length ≤ 256 ∧ ∀ depth, s.cfg.stackDepth = some depth → s.stack.length ≤ depth

end Sys2Proof.Machine
end

