-- ==== Sys2Proof/Certificates/Slice0/Obligations.lean ====
section
/-! DEFINITION. The statements about the machine, from the numbered rules of the spec. A statement that rests on one of the
spec's own decisions (D<n> of 92_eei_decisions.md) or on a choice of the model (log <n>, notes/assumptions) says so in its
docstring. Every statement holds for every value of the parameters it does not name in a hypothesis, since a state
carries them (`State.cfg`). -/

/-! ## The words the statements use -/

namespace Sys2Proof.Claims
open Sys2Proof Sys2Proof.Machine

/-- The automatic advance of an instruction that does not write `pc` is possible (R21): always under `PC_WRAP = wrap`, and
from every slot but `0xFF` under `fault`. -/
def Advances (s : State) : Prop := ¬(s.cfg.pcWrap = .fault ∧ s.pc = 0xFF)

/-- The stack can take one more byte (R25). -/
def HasRoom (s : State) : Prop := ∀ depth, s.cfg.stackDepth = some depth → s.stack.length < depth

/-- `t` is `s` after `x[d] <- v` and nothing else but the advance of `pc` (R17, R21, R23): the whole of the state, field by
field and, for RAM, byte by byte. `d = r5` stores at the address `R[4]` held before; `d = r6` writes nothing. -/
structure WroteReg (s t : State) (d : Reg) (v : Byte) : Prop where
  r0 : t.r0 = if d = .r0 then v else s.r0
  r1 : t.r1 = if d = .r1 then v else s.r1
  r2 : t.r2 = if d = .r2 then v else s.r2
  r3 : t.r3 = if d = .r3 then v else s.r3
  r4 : t.r4 = if d = .r4 then v else s.r4
  pc : t.pc = if d = .r7 then v else s.pc + 1
  ram : ∀ a, t.ram.read a = if d = .r5 ∧ a = s.r4.toNat then v else s.ram.read a
  stack : t.stack = s.stack
  term : t.term = s.term
  halted : t.halted = s.halted
  prog : t.prog = s.prog
  cfg : t.cfg = s.cfg

/-- An opcode byte of R65: base, `0x40` if `i1`, `0x20` if `i2`. -/
def opcodeByte (base : Nat) (i1 i2 : Bool) : Byte :=
  BitVec.ofNat 8 (base + (if i1 then 0x40 else 0) + (if i2 then 0x20 else 0))

/-- What R81 to R87 say of one two-operand `ALU` instruction: its encoding, the value it writes and everything it leaves
alone, and that it faults for `r6` (decision D5) or the PC wrap (R21, decision D8) only. -/
def AluRule (mk : Operand → Operand → Reg → Instr) (base : Nat) (result : Byte → Byte → Byte → Prop) : Prop :=
  ∀ (s : State) (a b : Operand) (d : Reg),
    ((mk a b d).wf s.cfg = true →
      decode s.cfg ⟨opcodeByte base a.flag b.flag, a.byte, b.byte, d.number⟩ = .ok (mk a b d)) ∧
    ((mk a b d).wf s.cfg = true → (d = .r7 ∨ Advances s) →
      ∃ t v, exec (mk a b d) s = .next t ∧ result (s.value a) (s.value b) v ∧ WroteReg s t d v) ∧
    (∀ f, exec (mk a b d) s = .fault f →
      (∃ g, f = .reservedRegister g) ∨ (f = .pcWrap ∧ d ≠ .r7 ∧ ¬Advances s))

/-- What R103 to R109 say of one comparing jump: its encoding, where `pc` goes, that nothing else changes, and that it faults
for `r6` (decision D5) or, of a jump not taken, the PC wrap (R21, decision D8) only. The target is `State.target`, by R101
(decision D9); that a comparing jump has a register target under `op1_value` too is the model's choice, log 7. -/
def CompareRule (mk : Operand → Operand → Target → Instr) (base : Nat) (cond : Nat → Nat → Prop) : Prop :=
  ∀ (s : State) (a b : Operand) (x : Target),
    ((mk a b x).wf s.cfg = true →
      decode s.cfg ⟨opcodeByte base a.flag b.flag, a.byte, b.byte, x.destByte⟩ = .ok (mk a b x)) ∧
    ((mk a b x).wf s.cfg = true → cond (s.value a).toNat (s.value b).toNat →
      exec (mk a b x) s = .next (s.setPc (s.target x))) ∧
    ((mk a b x).wf s.cfg = true → ¬cond (s.value a).toNat (s.value b).toNat → Advances s →
      exec (mk a b x) s = .next (s.setPc (s.pc + 1))) ∧
    (∀ f, exec (mk a b x) s = .fault f →
      (∃ g, f = .reservedRegister g) ∨
      (f = .pcWrap ∧ ¬cond (s.value a).toNat (s.value b).toNat ∧ ¬Advances s))

/-- The instruction number `class ‖ sub` of an opcode byte: its bits 4:0 (R51). -/
def row (b0 : Byte) : Nat := b0.toNat % 32

/-- R64, column OP1: every instruction but `JMP` (8), `NOP` (12), `POP` (19), `JRE` (22), `HCF` (23). -/
def usesOp1 (n : Nat) : Bool := !([8, 12, 19, 22, 23].contains n)
/-- R64, column OP2: the two-operand `ALU` instructions, the comparing jumps and `WRT` (20). -/
def usesOp2 (n : Nat) : Bool := [0, 1, 2, 3, 4, 5, 6, 9, 10, 11, 13, 14, 15, 20].contains n
/-- R64, column DEST: every instruction but `NOP` (12), `PUSH` (18), `WRT` (20), `CALL` (21), `JRE` (22), `HCF` (23). -/
def usesDest (n : Nat) : Bool := !([12, 18, 20, 21, 22, 23].contains n)

/-- The byte of a field (R50). -/
def fieldByte (w : InstrBytes) : RegField → Byte
  | .op1 => w.b1
  | .op2 => w.b2
  | .dest => w.b3

/-- The instruction uses this field as a register field (R57, R64): an operand it uses without its immediate flag, or DEST. The
fields of a jump (rows 8 to 15) follow `JUMP_TARGET` (R101, D9): `dest_literal` leaves no register field in DEST, and under
`op1_value` `JMP` uses operand 1 and not DEST (log 7). -/
def isRegField (c : Config) (w : InstrBytes) : RegField → Bool
  | .op1 => (usesOp1 (row w.b0) || (row w.b0 == 8 && c.jumpTarget == .op1Value)) && !flag1 w.b0
  | .op2 => usesOp2 (row w.b0) && !flag2 w.b0
  | .dest => usesDest (row w.b0) && !((8 ≤ row w.b0 && row w.b0 < 16) && c.jumpTarget == .destLiteral) &&
      !(row w.b0 == 8 && c.jumpTarget == .op1Value)

/-- An opcode byte that selects a row whatever the policies (R63): bit 7 clear, class not `11`, `i2` clear for `MOV`, `i1`
clear for `SWAP`. -/
def LegalOpcode (b0 : Byte) : Prop :=
  b0.toNat < 128 ∧ row b0 < 24 ∧ (row b0 = 16 → flag2 b0 = false) ∧ (row b0 = 17 → flag1 b0 = false)

/-- The fault of one used field (R57): none for an immediate; else above 7 under `REGIDX_POLICY = fault`, else `r6` under
`R6_POLICY = fault` (of a byte above 7 under `low3`, the bits 2:0 count). -/
def fieldFault (c : Config) (f : RegField) (used imm : Bool) (b : Byte) : Option DecodeError :=
  if !used || imm then none
  else if c.regIdx = .fault ∧ 7 < b.toNat then some (.illegalOperand f)
  else if b.toNat % 8 = 6 ∧ c.r6 = .fault then some (.reservedRegister f)
  else none

/-- The registers an instruction names in the fields it uses (R64, R57). -/
def usedRegs : Instr → List Reg
  | .and a b d | .ror a b d | .add a b d | .xor a b d | .or a b d | .rol a b d | .sub a b d =>
    operand a ++ operand b ++ [d]
  | .not a d | .mov a d => operand a ++ [d]
  | .jmp t => target t
  | .jne a b t | .jge a b t | .jgt a b t | .jeq a b t | .jlt a b t | .jle a b t =>
    operand a ++ operand b ++ target t
  | .nop | .jre | .hcf => []
  | .swap a d => [a, d]
  | .push a | .call a => operand a
  | .pop d => [d]
  | .wrt a b => operand a ++ operand b
where
  operand : Operand → List Reg
    | .imm _ => []
    | .reg r => [r]
  target : Target → List Reg
    | .reg r => [r]
    | .literal _ => []
    | .op1 o => operand o

/-- The registers an instruction has as a destination (R19, R64): DEST where it is written as a register, and both registers
of `SWAP`. The DEST of a jump is read, not written. -/
def destinations : Instr → List Reg
  | .and _ _ d | .ror _ _ d | .add _ _ d | .xor _ _ d | .or _ _ d | .rol _ _ d | .sub _ _ d => [d]
  | .not _ d | .mov _ d | .pop d => [d]
  | .swap a d => [a, d]
  | .jmp _ | .jne _ _ _ | .jge _ _ _ | .jgt _ _ _ | .jeq _ _ _ | .jlt _ _ _ | .jle _ _ _ => []
  | .nop | .jre | .hcf | .push _ | .wrt _ _ | .call _ => []

/-- The registers an instruction reads as a source (R19): its register operands, both registers of `SWAP`, a jump's register
target. (`JRE` reads `r7` beside these.) -/
def sources : Instr → List Reg
  | .and a b _ | .ror a b _ | .add a b _ | .xor a b _ | .or a b _ | .rol a b _ | .sub a b _ | .wrt a b =>
    usedRegs.operand a ++ usedRegs.operand b
  | .not a _ | .mov a _ | .push a | .call a => usedRegs.operand a
  | .jmp t => usedRegs.target t
  | .jne a b t | .jge a b t | .jgt a b t | .jeq a b t | .jlt a b t | .jle a b t =>
    usedRegs.operand a ++ usedRegs.operand b ++ usedRegs.target t
  | .swap a d => [a, d]
  | .nop | .jre | .hcf | .pop _ => []

/-- The condition of R110 for a `COND` instruction: `base(sub[1:0]) XOR sub[2]`. -/
def negationRule (sub v w : Nat) : Bool :=
  (match sub % 4 with
    | 0 => true
    | 1 => decide (v ≠ w)
    | 2 => decide (w ≤ v)
    | _ => decide (w < v)) ^^ decide (4 ≤ sub)

/-- The condition of each `COND` instruction as R102 to R109 give it, by the constructor it decodes to; nothing for an
instruction of another class. -/
def condition (s : State) : Instr → Option (Bool × Target)
  | .jne a b t => some (decide ((s.value a).toNat ≠ (s.value b).toNat), t)
  | .jge a b t => some (decide ((s.value b).toNat ≤ (s.value a).toNat), t)
  | .jgt a b t => some (decide ((s.value b).toNat < (s.value a).toNat), t)
  | .jeq a b t => some (decide ((s.value a).toNat = (s.value b).toNat), t)
  | .jlt a b t => some (decide ((s.value a).toNat < (s.value b).toNat), t)
  | .jle a b t => some (decide ((s.value a).toNat ≤ (s.value b).toNat), t)
  | .jmp t => some (true, t)
  | _ => none

/-- This instruction writes `pc` itself in this state (R21): a jump taken, `CALL`, `JRE`, a destination of `r7`. -/
def writesPc (s : State) (i : Instr) : Prop :=
  .r7 ∈ destinations i ∨ (∃ a, i = .call a) ∨ i = .jre ∨ ∃ t, condition s i = some (true, t)

/-- Operand 1 replaced, in an instruction that has one (`SWAP`'s is no operand: it is written). -/
def withOp1 (o : Operand) : Instr → Instr
  | .and _ b d => .and o b d
  | .ror _ b d => .ror o b d
  | .add _ b d => .add o b d
  | .xor _ b d => .xor o b d
  | .or _ b d => .or o b d
  | .rol _ b d => .rol o b d
  | .sub _ b d => .sub o b d
  | .not _ d => .not o d
  | .jne _ b t => .jne o b t
  | .jge _ b t => .jge o b t
  | .jgt _ b t => .jgt o b t
  | .jeq _ b t => .jeq o b t
  | .jlt _ b t => .jlt o b t
  | .jle _ b t => .jle o b t
  | .mov _ d => .mov o d
  | .push _ => .push o
  | .wrt _ b => .wrt o b
  | .call _ => .call o
  | .jmp (.op1 _) => .jmp (.op1 o)
  | i => i

/-- Operand 2 replaced, in an instruction that has one. -/
def withOp2 (o : Operand) : Instr → Instr
  | .and a _ d => .and a o d
  | .ror a _ d => .ror a o d
  | .add a _ d => .add a o d
  | .xor a _ d => .xor a o d
  | .or a _ d => .or a o d
  | .rol a _ d => .rol a o d
  | .sub a _ d => .sub a o d
  | .jne a _ t => .jne a o t
  | .jge a _ t => .jge a o t
  | .jgt a _ t => .jgt a o t
  | .jeq a _ t => .jeq a o t
  | .jlt a _ t => .jlt a o t
  | .jle a _ t => .jle a o t
  | .wrt a _ => .wrt a o
  | i => i

/-- The target replaced, in a jump. -/
def withTarget (x : Target) : Instr → Instr
  | .jmp _ => .jmp x
  | .jne a b _ => .jne a b x
  | .jge a b _ => .jge a b x
  | .jgt a b _ => .jgt a b x
  | .jeq a b _ => .jeq a b x
  | .jlt a b _ => .jlt a b x
  | .jle a b _ => .jle a b x
  | i => i

/-- The character of value `v` in an alphabet of R124, by its ASCII code (K2), or `?` past the alphabet's end (R126). -/
def letter (alphabet : String) (v : Nat) : TermEvent :=
  match alphabet.toList[v]? with
  | some ch => .char (BitVec.ofNat 8 ch.toNat)
  | none => .char 0x3F

/-- The event of `WRT` for each format value (R124 to R127). -/
def wrtShows (fmt v : Nat) : TermEvent :=
  match fmt with
  | 0 => if v = 0 then .clear else if v ≤ 0x7F then .char (BitVec.ofNat 8 v) else .char 0x3F
  | 1 => letter "0123456789" v
  | 2 => letter "ABCDEFGHIJKLMNOPQRSTUVWXYZ" v
  | _ => letter "0123456789ABCDEF" v

/-- `r'` is `r` with `g` applied to its next state, if it has one. -/
def Follows (g : State → State) (r r' : Result) : Prop :=
  match r with
  | .next t => r' = .next (g t)
  | .fault f => r' = .fault f
  | .refused e => r' = .refused e

end Sys2Proof.Claims

open Sys2Proof Sys2Proof.Machine Sys2Proof.Claims

/-! ## Encoding -/

/-- The worked encodings of the source that agree with the rules (E1, E4, E5 of 95_test_vectors.md) and one word of each
other family decode to the instruction they stand for. -/
def Obligations.WorkedEncodingsDecode : Prop :=
  decodeTableWord 32 0x02000102 = some (.add (.reg .r0) (.reg .r1) .r2) ∧
  decodeTableWord 32 0x26008001 = some (.sub (.reg .r0) (.imm 0x80) .r1) ∧
  decodeTableWord 32 0x23005500 = some (.xor (.reg .r0) (.imm 0x55) .r0) ∧
  decodeTableWord 32 0x40100000 = some (.and (.imm 0x10) (.reg .r0) .r0) ∧
  decodeTableWord 32 0x29041403 = some (.jne (.reg .r4) (.imm 0x14) (.reg .r3)) ∧
  decodeTableWord 32 0x50100007 = some (.mov (.imm 0x10) .r7) ∧
  decodeTableWord 32 0x13000007 = some (.pop .r7) ∧
  decodeTableWord 32 0x74410000 = some (.wrt (.imm 0x41) (.imm 0x00))

/-- R50 to R65: for every choice of parameters, decoding the encoding of a well-formed instruction gives it back, every
operand at every value the encoding admits. (The jump-target forms follow D9 and log 7.) -/
def Obligations.DecodeEncodeRoundTrip : Prop :=
  ∀ (c : Config) (i : Instr), i.wf c = true → decode c (encode i) = .ok i

/-- R57, R60, R101: whatever decodes is a well-formed instruction of the chosen parameters. -/
def Obligations.DecodedIsWellFormed : Prop :=
  ∀ (c : Config) (w : InstrBytes) (i : Instr), decode c w = .ok i → i.wf c = true

/-- R59, R60: a byte or an immediate flag an instruction does not use (R64) has no effect on what is decoded; the fixed flags
of `MOV` (16) and `SWAP` (17, whose OP1 is used) count as used. Under `JUMP_TARGET = op1_value` `JMP` would use other
fields than R64 gives it (log 7), so that value is left out here. -/
def Obligations.IgnoredFieldsDecodeAlike : Prop :=
  ∀ (c : Config) (w u : InstrBytes), c.jumpTarget ≠ .op1Value →
    rsvBit w.b0 = rsvBit u.b0 → row w.b0 = row u.b0 →
    (usesOp1 (row w.b0) = true → flag1 w.b0 = flag1 u.b0 ∧ w.b1 = u.b1) →
    (usesOp2 (row w.b0) = true ∨ row w.b0 = 16 → flag2 w.b0 = flag2 u.b0) →
    (usesOp2 (row w.b0) = true → w.b2 = u.b2) →
    (usesDest (row w.b0) = true → w.b3 = u.b3) →
    decode c w = decode c u

/-- R52 (its two policies; that the bit faults by default is the spec's decision D2): an opcode with bit 7 set is illegal under
`fault`, and decodes as with the bit cleared under `ignore`. -/
def Obligations.ReservedOpcodeBit : Prop :=
  ∀ (c : Config) (w : InstrBytes), rsvBit w.b0 = true →
    (c.bit7 = .fault → decode c w = .error (.illegalInstruction .bit7)) ∧
    (c.bit7 = .ignore → decode c w = decode c { w with b0 := w.b0 &&& 0x7F })

/-- R62 (the spec's decision D3): every opcode of class `11`, with any flag bits and subtype, is an illegal instruction, and a
step that fetches one stops with that fault. -/
def Obligations.ClassThreeFaults : Prop :=
  ∀ (s : State) (w : InstrBytes), s.halted = false → s.fetch = some w → classOf w.b0 = 3 →
    ∃ why, step s = .fault (.illegalInstruction why)

/-- R63 and the count check of 95_test_vectors.md (which rest on the decisions D2, D3, D6): under the defaults exactly 92 of the
256 opcode bytes select an instruction. -/
def Obligations.OpcodeSpaceCount : Prop :=
  ((List.range 256).filter fun n => (decodeTableWord 32 (n * 2 ^ 24)).isSome).length = 92

/-- R57 and R152 item 3 (decisions D4, D5, D26): with a legal opcode, the used register fields are checked in the order `B1`,
`B2`, `B3`; the first bad one gives the fault, and if none is bad an instruction is decoded, whatever a condition would be.
For the default reading of DEST in a jump (D9). -/
def Obligations.RegisterFieldsCheckedInOrder : Prop :=
  ∀ (c : Config) (w : InstrBytes), c.jumpTarget = .destRegister → LegalOpcode w.b0 →
    match ((fieldFault c .op1 (usesOp1 (row w.b0)) (flag1 w.b0) w.b1).or
      (fieldFault c .op2 (usesOp2 (row w.b0)) (flag2 w.b0) w.b2)).or
      (fieldFault c .dest (usesDest (row w.b0)) false w.b3) with
    | some e => decode c w = .error e
    | none => ∃ i, decode c w = .ok i

/-- R101 (the spec's decision D9; for the comparing jumps under `op1_value`, log 7): the target of a decoded jump is the value of
the register DEST names, the DEST byte, or, for `JMP`, the value of operand 1, as `JUMP_TARGET` says. The comparing jumps
are the rows 9 to 15 but 12, `JMP` is row 8. -/
def Obligations.JumpTargetReadings : Prop :=
  ∀ (s : State) (w : InstrBytes) (i : Instr) (c : Bool) (x : Target),
    decode s.cfg w = .ok i → condition s i = some (c, x) →
    (s.cfg.jumpTarget = .destLiteral → s.target x = w.b3) ∧
    (s.cfg.jumpTarget = .destRegister → ∃ r, regOfByte s.cfg w.b3 = some r ∧ s.target x = s.readReg r) ∧
    (s.cfg.jumpTarget = .op1Value → row w.b0 = 8 → flag1 w.b0 = true → s.target x = w.b1) ∧
    (s.cfg.jumpTarget = .op1Value → row w.b0 = 8 → flag1 w.b0 = false →
      ∃ r, regOfByte s.cfg w.b1 = some r ∧ s.target x = s.readReg r) ∧
    (s.cfg.jumpTarget = .op1Value → row w.b0 ≠ 8 → ∃ r, regOfByte s.cfg w.b3 = some r ∧ s.target x = s.readReg r)

/-! ## Reset, fetch and the step -/

/-- R30, R170: after reset with parameters `c` and launch program `p`, RAM reads zero at every address, `pc` is
`RESET_PC`, stack and terminal are empty, the machine is not halted, the program is the launch program, and under
`RESET_REGS = zero` the registers are zero. A reset of a running, halted or faulted machine does the same and keeps
the program. All but RAM is the spec's decision D20, D21. In the model's reset state `RESET_PC` is 0, and the values
drawn for `r0` to `r4` are 0 by the model's own choice (log 1), with no program loaded (log 4). -/
def Obligations.ResetLeaves : Prop :=
  (∀ (c : Config) (p : List InstrBytes),
    (∀ a, (State.launch c p).ram.read a = 0x00) ∧ (State.launch c p).pc = c.resetPc ∧ (State.launch c p).stack = [] ∧
    (State.launch c p).term = [] ∧ (State.launch c p).halted = false ∧ (State.launch c p).prog = p ∧
    (State.launch c p).cfg = c ∧
    (c.resetRegs = .zero → (State.launch c p).r0 = 0 ∧ (State.launch c p).r1 = 0 ∧ (State.launch c p).r2 = 0 ∧
      (State.launch c p).r3 = 0 ∧ (State.launch c p).r4 = 0) ∧
    (∀ d0 d1 d2 d3 d4, c.resetRegs = .undef d0 d1 d2 d3 d4 →
      (State.launch c p).r0 = d0 ∧ (State.launch c p).r1 = d1 ∧ (State.launch c p).r2 = d2 ∧
      (State.launch c p).r3 = d3 ∧ (State.launch c p).r4 = d4)) ∧
  (∀ s : State, s.restart = State.launch s.cfg s.prog ∧ (∀ a, s.restart.ram.read a = 0x00) ∧ s.restart.pc = s.cfg.resetPc ∧ s.restart.stack = [] ∧
    s.restart.term = [] ∧ s.restart.halted = false ∧ s.restart.prog = s.prog ∧ s.restart.cfg = s.cfg) ∧
  State.reset = State.launch Config.default [] ∧ State.reset.pc = 0x00 ∧ State.reset.r0 = 0x00 ∧ State.reset.r1 = 0x00 ∧
  State.reset.r2 = 0x00 ∧ State.reset.r3 = 0x00 ∧ State.reset.r4 = 0x00

/-- R172: when the machine is not halted and the four bytes of the slot `pc` selects decode to an instruction, a step is `exec`
of it at that very state; `exec` itself makes the advance of `pc`, and a step adds nothing around it. -/
def Obligations.StepRunsDecodedInstruction : Prop :=
  ∀ (s : State) (w : InstrBytes) (i : Instr),
    s.halted = false → s.prog[s.pc.toNat]? = some w → decode s.cfg w = .ok i → step s = exec i s

/-- R172, R28, R151 (decisions D19, D21, D24): a halted machine takes no step (the step answers the same state); a fetch at or above
`PROG_LEN` faults; bytes that do not decode stop the machine with their decode fault. -/
def Obligations.StepWithoutInstruction : Prop :=
  (∀ s : State, s.halted = true → step s = .next s) ∧
  (∀ s : State, s.halted = false → s.prog.length ≤ s.pc.toNat → step s = .fault (.fetchOutsideProgram s.pc)) ∧
  (∀ (s : State) (w : InstrBytes) (e : DecodeError), s.halted = false → s.prog[s.pc.toNat]? = some w →
    decode s.cfg w = .error e →
    step s = .fault (match e with
      | .illegalInstruction why => .illegalInstruction why
      | .illegalOperand f => .illegalOperand f
      | .reservedRegister f => .reservedRegister f))

/-! ## Reading registers -/

/-- R16 (with R13, R20; the value of `r7` under each `PC_READ` is the spec's decision D7): what each register number reads as at
the start of the instruction in slot `pc`. (`r6` is read under `R6_POLICY = documented` only.) -/
def Obligations.RegisterReads : Prop :=
  ∀ s : State,
    s.readReg .r0 = s.r0 ∧ s.readReg .r1 = s.r1 ∧ s.readReg .r2 = s.r2 ∧ s.readReg .r3 = s.r3 ∧ s.readReg .r4 = s.r4 ∧
    s.readReg .r5 = s.ram.read s.r4.toNat ∧ s.readReg .r6 = 0x00 ∧
    (s.cfg.pcRead = .next → (s.readReg .r7).toNat = (s.pc.toNat + 1) % 256) ∧
    (s.cfg.pcRead = .current → s.readReg .r7 = s.pc)

/-- The model's own second check of `r6` (log 21; that `r6` faults at all is the spec's decision D5): `exec` of an instruction that
names `r6` in a field it uses stops with `ReservedRegister`. Under `R6_POLICY = fault` no decoding gives such an instruction;
the fault R14 puts at decode is `ReservedRegisterStopsAtDecode`. -/
def Obligations.ReservedRegisterStops : Prop :=
  ∀ (s : State) (i : Instr), s.cfg.r6 = .fault → .r6 ∈ usedRegs i → ∃ f, exec i s = .fault (.reservedRegister f)

/-- R14, R57 under `R6_POLICY = fault` (the spec's decisions D5, D26; the fields a jump uses by D9 and log 7): a step that fetches a
word whose opcode selects an instruction, with no used register field out of range (a field above 7 may come first) and one
that names `r6`, stops with `ReservedRegister` for a field that names `r6`. -/
def Obligations.ReservedRegisterStopsAtDecode : Prop :=
  ∀ (s : State) (w : InstrBytes) (f : RegField), s.halted = false → s.fetch = some w → s.cfg.r6 = .fault →
    (∀ why, decode s.cfg w ≠ .error (.illegalInstruction why)) →
    (∀ g, isRegField s.cfg w g = true → regOfByte s.cfg (fieldByte w g) ≠ none) →
    isRegField s.cfg w f = true → regOfByte s.cfg (fieldByte w f) = some .r6 →
    ∃ g, isRegField s.cfg w g = true ∧ regOfByte s.cfg (fieldByte w g) = some .r6 ∧ step s = .fault (.reservedRegister g)

/-! ## The ALU class -/

/-- `AND`, `XOR` and `OR` (R81, R84, R85). Completion and the two faults rest on the spec's decisions D5 (`r6`) and D8 (the PC wrap
of R21; log 15 and 22). -/
def Obligations.BitwiseResults : Prop :=
  AluRule .and 0x00 (fun v w res => ∀ i < 8, res.getLsbD i = (v.getLsbD i && w.getLsbD i)) ∧
  AluRule .xor 0x03 (fun v w res => ∀ i < 8, res.getLsbD i = (v.getLsbD i != w.getLsbD i)) ∧
  AluRule .or 0x04 (fun v w res => ∀ i < 8, res.getLsbD i = (v.getLsbD i || w.getLsbD i))

/-- `ADD` and `SUB` (40_alu.md section 2; that they wrap modulo 256 is the spec's decision D10). -/
def Obligations.AdditionAndSubtractionResults : Prop :=
  AluRule .add 0x02 (fun v w res => res.toNat = (v.toNat + w.toNat) % 256) ∧
  AluRule .sub 0x06 (fun v w res => (res.toNat : Int) = ((v.toNat : Int) - w.toNat) % 256)

/-- `ROR` and `ROL` (40_alu.md section 2; the meaning of a rotation is general knowledge K1, and its count modulo 8 the spec's
decision D12): each bit of the result is the bit `n` places away, round the byte. -/
def Obligations.RotationResults : Prop :=
  AluRule .ror 0x01 (fun v w res => ∀ i < 8, res.getLsbD i = v.getLsbD ((i + w.toNat) % 8)) ∧
  AluRule .rol 0x05 (fun v w res => ∀ i < 8, res.getLsbD ((i + w.toNat) % 8) = v.getLsbD i)

/-- `NOT` (40_alu.md section 2) under each `NOT_KIND` (the spec's decision D11); operand 2 and its flag are ignored. -/
def Obligations.NotResult : Prop :=
  ∀ (s : State) (a : Operand) (d : Reg),
    ((Instr.not a d).wf s.cfg = true → ∀ (i2 : Bool) (b2 : Byte),
      decode s.cfg ⟨opcodeByte 0x07 a.flag i2, a.byte, b2, d.number⟩ = .ok (.not a d)) ∧
    ((Instr.not a d).wf s.cfg = true → (d = .r7 ∨ Advances s) →
      ∃ t v, exec (.not a d) s = .next t ∧ WroteReg s t d v ∧
        (s.cfg.notKind = .bitwise → ∀ i < 8, v.getLsbD i = !(s.value a).getLsbD i) ∧
        (s.cfg.notKind = .logical → v.toNat = if (s.value a).toNat = 0 then 1 else 0))

/-! ## The COND class -/

/-- `JNE` and `JEQ` (R103, R107). The target forms are the spec's decision D9, and under `op1_value` the model's choice, log 7;
the faults are decisions D5 (`r6`) and D8 (the PC wrap of R21; log 15). -/
def Obligations.EqualityJumps : Prop :=
  CompareRule .jne 0x09 (fun v w => v ≠ w) ∧ CompareRule .jeq 0x0D (fun v w => v = w)

/-- The unsigned ordering jumps (R104, R105, R108, R109). The target forms are the spec's decision D9, and under `op1_value` the
model's choice, log 7; the faults are decisions D5 (`r6`) and D8 (the PC wrap of R21; log 15). -/
def Obligations.OrderingJumps : Prop :=
  CompareRule .jge 0x0A (fun v w => v ≥ w) ∧ CompareRule .jgt 0x0B (fun v w => v > w) ∧
  CompareRule .jlt 0x0E (fun v w => v < w) ∧ CompareRule .jle 0x0F (fun v w => v ≤ w)

/-- `JMP` (41_cond.md section 2; the target by the spec's decision D9): always to its target, nothing else changed, in every
slot. -/
def Obligations.JumpAlways : Prop :=
  ∀ (s : State) (x : Target), (Instr.jmp x).wf s.cfg = true → exec (.jmp x) s = .next (s.setPc (s.target x))

/-- `NOP` (R106), whatever its operand bytes and flags hold, changes nothing but `pc`; with bit 7 set it is illegal under
`BIT7_POLICY = fault` (the spec's decision D2), and its only other fault is the PC wrap (R21, decision D8's `PC_WRAP = fault`;
log 15). -/
def Obligations.NopDoesNothing : Prop :=
  (∀ (c : Config) (i1 i2 : Bool) (b1 b2 b3 : Byte),
    decode c ⟨opcodeByte 0x0C i1 i2, b1, b2, b3⟩ = .ok .nop ∧
    (c.bit7 = .fault → decode c ⟨opcodeByte 0x8C i1 i2, b1, b2, b3⟩ = .error (.illegalInstruction .bit7))) ∧
  (∀ s : State, Advances s → exec .nop s = .next (s.setPc (s.pc + 1))) ∧
  (∀ (s : State) (f : Fault), exec .nop s = .fault f → f = .pcWrap ∧ ¬Advances s)

/-- R110: a `COND` instruction jumps on the condition of `sub[1:0]`, negated by `sub[2]`, of the values of the operands it
uses, and else goes on with the next slot; so of two subtypes that differ in bit 2 exactly one jumps on the same values.
The target is `State.target` of the decoded instruction, by R101. -/
def Obligations.SubtypeBitTwoNegates : Prop :=
  (∀ (s : State) (w : InstrBytes) (i : Instr), decode s.cfg w = .ok i → classOf w.b0 = 1 → Advances s →
    ∃ v u x : Byte,
      (usesOp1 (row w.b0) = true → ∃ o, decodeOp1 s.cfg w = .ok o ∧ v = s.value o) ∧
      (usesOp2 (row w.b0) = true → ∃ o, decodeOp2 s.cfg w = .ok o ∧ u = s.value o) ∧
      (i = .nop ∨ ∃ tgt, condition s i = some (negationRule (subOf w.b0).toNat v.toNat u.toNat, tgt) ∧ x = s.target tgt) ∧
      exec i s = .next (s.setPc (if negationRule (subOf w.b0).toNat v.toNat u.toNat then x else s.pc + 1))) ∧
  (∀ sub v w, sub < 4 → negationRule (sub + 4) v w = !negationRule sub v w)

/-- `exec` of a jump does the same in one state whether the term holds a register, a literal or an operand as target, as long as
the three have the same value. At most one of the three forms decodes under the parameters of the state, so this is about what
the model's `exec` does with terms no decoding gives (log 21); the readings of one word are `JumpReadingsAgreeOnAWord`. -/
def Obligations.JumpReadingsAgree : Prop :=
  ∀ (s : State) (i : Instr) (r : Reg) (n : Byte) (o : Operand), r.allowed s.cfg = true → o.wf s.cfg = true →
    s.readReg r = n → s.value o = n →
    exec (withTarget (.reg r) i) s = exec (withTarget (.literal n) i) s ∧
    exec (withTarget (.op1 o) (.jmp (.reg r))) s = exec (withTarget (.literal n) (.jmp (.reg r))) s

/-- R101 (the spec's decision D9, which says that the readings agree there; under `op1_value` the comparing jumps and the ignored
DEST of `JMP` are the model's choice, log 7): a fetched `COND` word whose DEST byte names a register that holds that very byte,
and, where `op1_value` is one of the two readings and the word is `JMP` (row 8), whose operand 1 has that value too, steps alike
under any two values of `JUMP_TARGET`. This is how a program can be written so that every reading agrees. -/
def Obligations.JumpReadingsAgreeOnAWord : Prop :=
  ∀ (s : State) (w : InstrBytes) (r : Reg) (j : JumpTarget), s.fetch = some w → classOf w.b0 = 1 →
    regOfByte s.cfg w.b3 = some r → r.allowed s.cfg = true → s.readReg r = w.b3 →
    (row w.b0 = 8 → s.cfg.jumpTarget = .op1Value ∨ j = .op1Value →
      ∃ o, decodeOp1 s.cfg w = .ok o ∧ s.value o = w.b3) →
    Follows (fun t => t.setCfg { t.cfg with jumpTarget := j }) (step s)
      (step (s.setCfg { s.cfg with jumpTarget := j }))

/-! ## The IO class -/

/-- `MOV` (42_io.md; what a set `i2` does is the spec's decision D6). -/
def Obligations.MovResult : Prop :=
  ∀ (s : State) (a : Operand) (d : Reg), (Instr.mov a d).wf s.cfg = true →
    (∀ b2, decode s.cfg ⟨opcodeByte 0x10 a.flag false, a.byte, b2, d.number⟩ = .ok (.mov a d)) ∧
    (∀ b2, s.cfg.movI2 = .ignore → decode s.cfg ⟨opcodeByte 0x10 a.flag true, a.byte, b2, d.number⟩ = .ok (.mov a d)) ∧
    (∀ b1 b2 b3, s.cfg.movI2 = .fault →
      decode s.cfg ⟨opcodeByte 0x10 a.flag true, b1, b2, b3⟩ = .error (.illegalInstruction .fixedFlag)) ∧
    ((d = .r7 ∨ Advances s) → ∃ t, exec (.mov a d) s = .next t ∧ WroteReg s t d (s.value a))

/-- `SWAP` (42_io.md; that a write of `r5` goes to the address `R[4]` held before is the spec's decision D22): each of the two
registers gets what the other read as, and nothing else changes but the advance of `pc`. `i2` and operand 2 are ignored, and a
word with `i1 = 1` is illegal under every choice of parameters (R60, R121, decision D6; the class and subtype of `SWAP` are row
17), whatever its other bytes hold. -/
def Obligations.SwapResult : Prop :=
  (∀ (c : Config) (w : InstrBytes), row w.b0 = 17 → flag1 w.b0 = true →
    ∃ why, decode c w = .error (.illegalInstruction why)) ∧
  (∀ (c : Config) (a d : Reg), (Instr.swap a d).wf c = true → ∀ (i2 : Bool) (b2 : Byte),
    decode c ⟨opcodeByte 0x11 false i2, a.number, b2, d.number⟩ = .ok (.swap a d)) ∧
  ∀ (s : State) (a d : Reg), (Instr.swap a d).wf s.cfg = true → (a = .r7 ∨ d = .r7 ∨ Advances s) →
    ∃ t, exec (.swap a d) s = .next t ∧
      t.r0 = (if d = .r0 then s.readReg a else if a = .r0 then s.readReg d else s.r0) ∧
      t.r1 = (if d = .r1 then s.readReg a else if a = .r1 then s.readReg d else s.r1) ∧
      t.r2 = (if d = .r2 then s.readReg a else if a = .r2 then s.readReg d else s.r2) ∧
      t.r3 = (if d = .r3 then s.readReg a else if a = .r3 then s.readReg d else s.r3) ∧
      t.r4 = (if d = .r4 then s.readReg a else if a = .r4 then s.readReg d else s.r4) ∧
      t.pc = (if d = .r7 then s.readReg a else if a = .r7 then s.readReg d else s.pc + 1) ∧
      (∀ x, t.ram.read x =
        if x = s.r4.toNat ∧ d = .r5 then s.readReg a
        else if x = s.r4.toNat ∧ a = .r5 then s.readReg d
        else s.ram.read x) ∧
      t.stack = s.stack ∧ t.term = s.term ∧ t.halted = s.halted ∧ t.prog = s.prog ∧ t.cfg = s.cfg

/-- `PUSH` (42_io.md; the stack as a separate list with a depth is the spec's decision D13): the operand's value on top, or
`StackOverflow` when the stack is full. -/
def Obligations.PushResult : Prop :=
  ∀ (s : State) (a : Operand), (Instr.push a).wf s.cfg = true →
    (HasRoom s → Advances s → exec (.push a) s = .next ((s.setStack (s.value a :: s.stack)).setPc (s.pc + 1))) ∧
    (¬HasRoom s → exec (.push a) s = .fault .stackOverflow)

/-- `POP` (42_io.md; decision D13): the top byte goes to the destination, or `StackUnderflow` on an empty stack. -/
def Obligations.PopResult : Prop :=
  ∀ (s : State) (d : Reg), (Instr.pop d).wf s.cfg = true →
    (∀ v below, s.stack = v :: below → (d = .r7 ∨ Advances s) →
      ∃ t, exec (.pop d) s = .next t ∧ WroteReg (s.setStack below) t d v) ∧
    (s.stack = [] → exec (.pop d) s = .fault .stackUnderflow)

/-- `WRT` (42_io.md; a format above 3 is the spec's decision D16, the character codes K2): one event, by the format value, and
nothing else but the advance of `pc`. -/
def Obligations.WrtResult : Prop :=
  ∀ (s : State) (a b : Operand), (Instr.wrt a b).wf s.cfg = true →
    ((s.value b).toNat ≤ 3 → Advances s →
      exec (.wrt a b) s =
        .next ((s.setTerm (s.term ++ [wrtShows (s.value b).toNat (s.value a).toNat])).setPc (s.pc + 1))) ∧
    (s.cfg.wrtFmt = .low2 → Advances s →
      exec (.wrt a b) s =
        .next ((s.setTerm (s.term ++ [wrtShows ((s.value b).toNat % 4) (s.value a).toNat])).setPc (s.pc + 1))) ∧
    (s.cfg.wrtFmt = .fault → 3 < (s.value b).toNat → exec (.wrt a b) s = .fault (.illegalWrtFormat (s.value b)))

/-- `CALL` (42_io.md; what it pushes is the spec's decision D14): the slot after the `CALL` on the stack, and on to the operand's
value, in every slot; `StackOverflow` when the stack is full. -/
def Obligations.CallResult : Prop :=
  ∀ (s : State) (a : Operand), (Instr.call a).wf s.cfg = true →
    (HasRoom s → exec (.call a) s = .next ((s.setStack ((s.pc + 1) :: s.stack)).setPc (s.value a))) ∧
    (¬HasRoom s → exec (.call a) s = .fault .stackOverflow)

/-- `JRE` (42_io.md; its base and its wrap are the spec's decisions D7, D8, D15): `pc <- (x[7] + r0) mod 256` with `r0` signed; under
`PC_WRAP = fault` a sum outside 0 to 255 faults. -/
def Obligations.JreResult : Prop :=
  ∀ s : State,
    let sum : Int := (s.readReg .r7).toNat + (if s.r0.toNat < 128 then (s.r0.toNat : Int) else s.r0.toNat - 256)
    ((s.cfg.pcWrap = .wrap ∨ (0 ≤ sum ∧ sum ≤ 255)) →
      ∃ p : Byte, exec .jre s = .next (s.setPc p) ∧ (p.toNat : Int) = sum % 256) ∧
    (s.cfg.pcWrap = .fault → (sum < 0 ∨ 255 < sum) → exec .jre s = .fault .pcWrap)

/-- `HCF` (42_io.md; the halted flag is the spec's decision D19): `HALTED` is set, `pc` advances, all else is kept; where the
automatic advance faults (decision D8) it faults and does not halt. -/
def Obligations.HcfHalts : Prop :=
  ∀ s : State,
    (Advances s → exec .hcf s = .next ((s.setHalted true).setPc (s.pc + 1))) ∧
    (¬Advances s → exec .hcf s = .fault .pcWrap)

/-- `CALL` and the `RET` macro, `POP r7` with bytes `13 00 00 07` (42_io.md, 30_encoding.md; decisions D13, D14): from any state
whose stack is as `CALL` left it, `RET` continues at the slot after the `CALL` with the stack as before it, and changes
nothing else. -/
def Obligations.CallThenReturn : Prop :=
  encode (.pop .r7) = ⟨0x13, 0x00, 0x00, 0x07⟩ ∧
  ∀ (s t u : State) (a : Operand), exec (.call a) s = .next t → u.stack = t.stack →
    exec (.pop .r7) u = .next ((u.setStack s.stack).setPc (s.pc + 1))

/-! ## Rules over all instructions -/

/-- R61: an immediate is the operand byte itself, and an instruction with an immediate value acts exactly as with that value in
a register used as the operand. -/
def Obligations.ImmediateActsAsRegister : Prop :=
  (∀ (c : Config) (w : InstrBytes),
    (flag1 w.b0 = true → decodeOp1 c w = .ok (.imm w.b1)) ∧ (flag2 w.b0 = true → decodeOp2 c w = .ok (.imm w.b2))) ∧
  (∀ (s : State) (v : Byte), s.value (.imm v) = v) ∧
  (∀ (s : State) (i : Instr) (r : Reg) (v : Byte), r.allowed s.cfg = true → s.readReg r = v →
    exec (withOp1 (.imm v) i) s = exec (withOp1 (.reg r) i) s ∧
    exec (withOp2 (.imm v) i) s = exec (withOp2 (.reg r) i) s)

/-- R34: `r4` is unchanged by every instruction that does not have it as a destination, whatever RAM access it makes. -/
def Obligations.AddressRegisterNeverMovesByItself : Prop :=
  ∀ (s t : State) (i : Instr), exec i s = .next t → .r4 ∉ destinations i → t.r4 = s.r4

/-- 10_state.md section 1: no instruction changes a general purpose register that is not its destination. -/
def Obligations.OnlyDestinationsChange : Prop :=
  ∀ (s t : State) (i : Instr), exec i s = .next t →
    (.r0 ∉ destinations i → t.r0 = s.r0) ∧ (.r1 ∉ destinations i → t.r1 = s.r1) ∧
    (.r2 ∉ destinations i → t.r2 = s.r2) ∧ (.r3 ∉ destinations i → t.r3 = s.r3)

/-- 20_memory.md section 1 (that the address is `R[4]` before the instruction, decision D22): an instruction without `r5` as a
destination leaves every byte of RAM as it was, and one with `r5` changes the byte at `R[4]` at most. -/
def Obligations.RamChangesOnlyThroughR5 : Prop :=
  ∀ (s t : State) (i : Instr), exec i s = .next t →
    ∀ a, (.r5 ∉ destinations i ∨ a ≠ s.r4.toNat) → t.ram.read a = s.ram.read a

/-- 10_state.md section 4 (decisions D13, D18, D19): only `PUSH`, `CALL` and `POP` change the stack, by one byte at its top; only
`WRT` changes the terminal, by one event at its end; only `HCF` changes `HALTED`. -/
def Obligations.HiddenStateChanges : Prop :=
  ∀ (s t : State) (i : Instr), exec i s = .next t →
    (t.stack = s.stack ∨
      ((∃ a, i = .push a) ∧ ∃ v, t.stack = v :: s.stack) ∨ ((∃ a, i = .call a) ∧ ∃ v, t.stack = v :: s.stack) ∨
      ((∃ d, i = .pop d) ∧ ∃ v, s.stack = v :: t.stack)) ∧
    (t.term = s.term ∨ ((∃ a b, i = .wrt a b) ∧ ∃ e, t.term = s.term ++ [e])) ∧
    (t.halted = s.halted ∨ (i = .hcf ∧ t.halted = true))

/-- 10_state.md section 2 (that the PC wraps, or faults, is the spec's decision D8): an instruction that does not write `pc` leaves
it at the next slot, and completes only where the automatic advance does not fault. -/
def Obligations.AutomaticAdvance : Prop :=
  ∀ (s t : State) (i : Instr), exec i s = .next t → ¬writesPc s i → t.pc = s.pc + 1 ∧ Advances s

/-- 60_exceptions.md section 1 (R151; decisions D5, D8, D13, D16): every well-formed instruction completes or stops with one of four
faults, each under its own condition. So no RAM access, no arithmetic and no jump target faults, and no meaning refuses. -/
def Obligations.FaultsAreOnlyThese : Prop :=
  ∀ (s : State) (i : Instr), i.wf s.cfg = true →
    (∃ t, exec i s = .next t) ∨
    (exec i s = .fault .stackOverflow ∧ ¬HasRoom s ∧ ((∃ a, i = .push a) ∨ ∃ a, i = .call a)) ∨
    (exec i s = .fault .stackUnderflow ∧ s.stack = [] ∧ ∃ d, i = .pop d) ∨
    (∃ a b, i = .wrt a b ∧ exec i s = .fault (.illegalWrtFormat (s.value b)) ∧ s.cfg.wrtFmt = .fault ∧
      3 < (s.value b).toNat) ∨
    (exec i s = .fault .pcWrap ∧ s.cfg.pcWrap = .fault ∧ (s.pc = 0xFF ∨ i = .jre))

/-- 20_memory.md section 3, 10_state.md section 5: no step changes the program store, so the program cannot modify itself, or the
parameters. -/
def Obligations.ProgramIsReadOnly : Prop :=
  ∀ s t : State, step s = .next t → t.prog = s.prog ∧ t.cfg = s.cfg

/-- 92_eei_decisions.md D7: an instruction that neither reads `r7` nor is `JRE` does the same under both values of `PC_READ`. -/
def Obligations.PcReadMattersOnlyToReaders : Prop :=
  ∀ (s : State) (i : Instr) (p : PcRead), .r7 ∉ sources i → i ≠ .jre →
    Follows (fun t => t.setCfg { t.cfg with pcRead := p }) (exec i s) (exec i (s.setCfg { s.cfg with pcRead := p }))

/-- 10_state.md section 4 (the terminal as a log, decision D18): a program cannot observe the terminal. Two machines that differ
only in what the terminal held step alike, and the same events are appended to both. -/
def Obligations.TerminalIsUnobservable : Prop :=
  ∀ (s : State) (l : List TermEvent),
    (∀ t, step s = .next t → ∃ es, t.term = s.term ++ es ∧ step (s.setTerm l) = .next (t.setTerm (l ++ es))) ∧
    (∀ f, step s = .fault f → step (s.setTerm l) = .fault f) ∧
    (∀ r, step s ≠ .refused r)

/-! ## The invariant and the end of a run -/

/-- What a run starts from (R30, R170; the values are the spec's decisions D20 and D21) meets the invariant, for every choice of
parameters and every program of at most 256 slots; so does the model's own reset state (its empty program and registers are the
model's choice, log 1 and 4; its stack depth log 2). -/
def Obligations.InvariantAtReset : Prop :=
  (∀ (c : Config) (p : List InstrBytes), p.length ≤ 256 → (State.launch c p).Inv) ∧ State.reset.Inv

/-- 10_state.md sections 4 and 5 (the invariant: RAM in its canonical form within 256 bytes, at most 256 program slots, the stack
within `STACK_DEPTH`, decisions D13, D21): every step from a state that meets it gives one that meets it. -/
def Obligations.StepKeepsInvariant : Prop :=
  ∀ s t : State, s.Inv → step s = .next t → t.Inv

/-- 70_reset_and_hazards.md section 3, R173 (decisions D19, D24): from every state a run ends in exactly one of three ways, halted,
faulted or never, and a faulted run has one fault. A halted machine's step answers the same state here, which is the model's
choice, log 8, so that a halted run goes on in no other way. -/
def Obligations.RunEndsInExactlyOneWay : Prop :=
  ∀ s : State,
    (EndsHalted s ∨ (∃ f, EndsFaulted s f) ∨ NeverEnds s) ∧
    ¬(EndsHalted s ∧ ∃ f, EndsFaulted s f) ∧ ¬(EndsHalted s ∧ NeverEnds s) ∧ ¬((∃ f, EndsFaulted s f) ∧ NeverEnds s) ∧
    ∀ f g, EndsFaulted s f → EndsFaulted s g → f = g
end

