-- ==== Sys2Proof/Laws/Memory.lean ====
section
/-! SUPPORT. The laws of RAM: a read after a write, and every write keeps the canonical form. -/

namespace Sys2Proof.Machine

@[simp] theorem Memory.read_nil (a : Nat) : Memory.read [] a = Memory.unlisted := rfl

theorem Memory.read_cons (b : Nat) (w : Byte) (m : Memory) (a : Nat) :
    Memory.read ((b, w) :: m) a = if b = a then w else Memory.read m a := rfl

/-- Taking the cells of `a` out leaves `a` unlisted and every other address as it was. -/
theorem Memory.read_filter (m : Memory) (a b : Nat) :
    Memory.read (m.filter fun cell => cell.1 != a) b = if b = a then Memory.unlisted else Memory.read m b := by
  induction m with
  | nil => simp
  | cons cell m ih =>
    obtain ⟨k, w⟩ := cell
    by_cases hk : k = a
    · subst hk
      by_cases hb : b = k
      · subst hb
        simpa using ih
      · simp [ih, hb, Memory.read_cons, Ne.symm hb]
    · by_cases hb : k = b
      · subst hb
        simp [hk, Memory.read_cons]
      · simp [hk, Memory.read_cons, hb, ih]

/-- Inserting a cell of an address the list does not hold. -/
theorem Memory.read_insert (m : Memory) (a b : Nat) (v : Byte) (h : ∀ cell ∈ m, cell.1 ≠ a) :
    Memory.read (Memory.insert m a v) b = if b = a then v else Memory.read m b := by
  induction m with
  | nil => simp [Memory.insert, Memory.read_cons, eq_comm]
  | cons cell m ih =>
    obtain ⟨k, w⟩ := cell
    have hk : k ≠ a := h (k, w) (by simp)
    have ih := ih fun cell hc => h cell (by simp [hc])
    by_cases hlt : a < k
    · simp [Memory.insert, hlt, Memory.read_cons, eq_comm]
    · by_cases hb : k = b
      · subst hb
        simp [Memory.insert, hlt, Memory.read_cons, hk]
      · simp [Memory.insert, hlt, Memory.read_cons, hb, ih]

theorem Memory.filter_ne (m : Memory) (a : Nat) :
    ∀ cell ∈ m.filter fun cell => cell.1 != a, cell.1 ≠ a := by
  intro cell h
  simpa using (List.mem_filter.mp h).2

/-- A read after a write (R31, R32): the written byte at the written address, every other byte unchanged. -/
@[simp] theorem Memory.read_write (m : Memory) (a b : Nat) (v : Byte) :
    Memory.read (Memory.write m a v) b = if b = a then v else Memory.read m b := by
  unfold Memory.write
  by_cases hv : v = Memory.unlisted
  · simp [hv, Memory.read_filter]
  · rw [if_neg hv, Memory.read_insert _ _ _ _ (Memory.filter_ne m a), Memory.read_filter]
    split <;> rfl

/-! ## The canonical form -/

/-- The canonical form, as propositions. -/
theorem Memory.wf_iff (m : Memory) :
    m.wf = true ↔ m.Pairwise (fun x y => x.1 < y.1) ∧ ∀ cell ∈ m, cell.1 < 256 ∧ cell.2 ≠ Memory.unlisted := by
  simp [Memory.wf]

theorem Memory.wf_nil : Memory.wf [] = true := by decide

theorem Memory.mem_insert (m : Memory) (a : Nat) (v : Byte) (cell : Host.Cell) (h : cell ∈ Memory.insert m a v) :
    cell = (a, v) ∨ cell ∈ m := by
  induction m with
  | nil => simpa [Memory.insert] using h
  | cons k m ih =>
    by_cases hlt : a < k.1
    · simpa [Memory.insert, hlt] using h
    · rcases (by simpa [Memory.insert, hlt] using h : cell = k ∨ cell ∈ Memory.insert m a v) with h | h
      · exact .inr (by simp [h])
      · exact (ih h).imp_right fun h => List.mem_cons_of_mem _ h

theorem Memory.pairwise_insert (m : Memory) (a : Nat) (v : Byte) (h : m.Pairwise fun x y => x.1 < y.1)
    (hne : ∀ cell ∈ m, cell.1 ≠ a) : (Memory.insert m a v).Pairwise fun x y => x.1 < y.1 := by
  induction m with
  | nil => simp [Memory.insert]
  | cons k m ih =>
    rw [List.pairwise_cons] at h
    have hk : k.1 ≠ a := hne k (by simp)
    by_cases hlt : a < k.1
    · simp only [Memory.insert, hlt, if_true, List.pairwise_cons]
      refine ⟨fun y hy => ?_, h⟩
      rcases List.mem_cons.mp hy with rfl | hy
      · exact hlt
      · exact lt_trans hlt (h.1 y hy)
    · simp only [Memory.insert, hlt, if_false, List.pairwise_cons]
      refine ⟨fun y hy => ?_, ih h.2 fun c hc => hne c (by simp [hc])⟩
      rcases Memory.mem_insert m a v y hy with rfl | hy
      · show k.1 < a
        omega
      · exact h.1 y hy

/-- A write at an address of the RAM keeps the canonical form. -/
theorem Memory.write_wf (m : Memory) (a : Nat) (v : Byte) (h : m.wf = true) (ha : a < 256) :
    (Memory.write m a v).wf = true := by
  rw [Memory.wf_iff] at h ⊢
  have hp := h.1.filter fun cell => cell.1 != a
  have hc : ∀ cell ∈ m.filter fun cell => cell.1 != a, cell.1 < 256 ∧ cell.2 ≠ Memory.unlisted :=
    fun cell hm => h.2 cell (List.mem_of_mem_filter hm)
  unfold Memory.write
  by_cases hv : v = Memory.unlisted
  · rw [if_pos hv]
    exact ⟨hp, hc⟩
  · rw [if_neg hv]
    refine ⟨Memory.pairwise_insert _ a v hp (Memory.filter_ne m a), fun cell hm => ?_⟩
    rcases Memory.mem_insert _ _ _ _ hm with rfl | hm
    · exact ⟨ha, hv⟩
    · exact hc cell hm

end Sys2Proof.Machine
end

