-- ==== Sys2Proof/Laws/State.lean ====
section
/-! SUPPORT. One lemma per field per update of a state. -/

namespace Sys2Proof.Machine

section
variable (s : State) (v : Byte)
@[simp] theorem State.setR0_r0 : (s.setR0 v).r0 = v := rfl
@[simp] theorem State.setR0_r1 : (s.setR0 v).r1 = s.r1 := rfl
@[simp] theorem State.setR0_r2 : (s.setR0 v).r2 = s.r2 := rfl
@[simp] theorem State.setR0_r3 : (s.setR0 v).r3 = s.r3 := rfl
@[simp] theorem State.setR0_r4 : (s.setR0 v).r4 = s.r4 := rfl
@[simp] theorem State.setR0_pc : (s.setR0 v).pc = s.pc := rfl
@[simp] theorem State.setR0_ram : (s.setR0 v).ram = s.ram := rfl
@[simp] theorem State.setR0_stack : (s.setR0 v).stack = s.stack := rfl
@[simp] theorem State.setR0_term : (s.setR0 v).term = s.term := rfl
@[simp] theorem State.setR0_halted : (s.setR0 v).halted = s.halted := rfl
@[simp] theorem State.setR0_prog : (s.setR0 v).prog = s.prog := rfl
@[simp] theorem State.setR0_cfg : (s.setR0 v).cfg = s.cfg := rfl
end

section
variable (s : State) (v : Byte)
@[simp] theorem State.setR1_r0 : (s.setR1 v).r0 = s.r0 := rfl
@[simp] theorem State.setR1_r1 : (s.setR1 v).r1 = v := rfl
@[simp] theorem State.setR1_r2 : (s.setR1 v).r2 = s.r2 := rfl
@[simp] theorem State.setR1_r3 : (s.setR1 v).r3 = s.r3 := rfl
@[simp] theorem State.setR1_r4 : (s.setR1 v).r4 = s.r4 := rfl
@[simp] theorem State.setR1_pc : (s.setR1 v).pc = s.pc := rfl
@[simp] theorem State.setR1_ram : (s.setR1 v).ram = s.ram := rfl
@[simp] theorem State.setR1_stack : (s.setR1 v).stack = s.stack := rfl
@[simp] theorem State.setR1_term : (s.setR1 v).term = s.term := rfl
@[simp] theorem State.setR1_halted : (s.setR1 v).halted = s.halted := rfl
@[simp] theorem State.setR1_prog : (s.setR1 v).prog = s.prog := rfl
@[simp] theorem State.setR1_cfg : (s.setR1 v).cfg = s.cfg := rfl
end

section
variable (s : State) (v : Byte)
@[simp] theorem State.setR2_r0 : (s.setR2 v).r0 = s.r0 := rfl
@[simp] theorem State.setR2_r1 : (s.setR2 v).r1 = s.r1 := rfl
@[simp] theorem State.setR2_r2 : (s.setR2 v).r2 = v := rfl
@[simp] theorem State.setR2_r3 : (s.setR2 v).r3 = s.r3 := rfl
@[simp] theorem State.setR2_r4 : (s.setR2 v).r4 = s.r4 := rfl
@[simp] theorem State.setR2_pc : (s.setR2 v).pc = s.pc := rfl
@[simp] theorem State.setR2_ram : (s.setR2 v).ram = s.ram := rfl
@[simp] theorem State.setR2_stack : (s.setR2 v).stack = s.stack := rfl
@[simp] theorem State.setR2_term : (s.setR2 v).term = s.term := rfl
@[simp] theorem State.setR2_halted : (s.setR2 v).halted = s.halted := rfl
@[simp] theorem State.setR2_prog : (s.setR2 v).prog = s.prog := rfl
@[simp] theorem State.setR2_cfg : (s.setR2 v).cfg = s.cfg := rfl
end

section
variable (s : State) (v : Byte)
@[simp] theorem State.setR3_r0 : (s.setR3 v).r0 = s.r0 := rfl
@[simp] theorem State.setR3_r1 : (s.setR3 v).r1 = s.r1 := rfl
@[simp] theorem State.setR3_r2 : (s.setR3 v).r2 = s.r2 := rfl
@[simp] theorem State.setR3_r3 : (s.setR3 v).r3 = v := rfl
@[simp] theorem State.setR3_r4 : (s.setR3 v).r4 = s.r4 := rfl
@[simp] theorem State.setR3_pc : (s.setR3 v).pc = s.pc := rfl
@[simp] theorem State.setR3_ram : (s.setR3 v).ram = s.ram := rfl
@[simp] theorem State.setR3_stack : (s.setR3 v).stack = s.stack := rfl
@[simp] theorem State.setR3_term : (s.setR3 v).term = s.term := rfl
@[simp] theorem State.setR3_halted : (s.setR3 v).halted = s.halted := rfl
@[simp] theorem State.setR3_prog : (s.setR3 v).prog = s.prog := rfl
@[simp] theorem State.setR3_cfg : (s.setR3 v).cfg = s.cfg := rfl
end

section
variable (s : State) (v : Byte)
@[simp] theorem State.setR4_r0 : (s.setR4 v).r0 = s.r0 := rfl
@[simp] theorem State.setR4_r1 : (s.setR4 v).r1 = s.r1 := rfl
@[simp] theorem State.setR4_r2 : (s.setR4 v).r2 = s.r2 := rfl
@[simp] theorem State.setR4_r3 : (s.setR4 v).r3 = s.r3 := rfl
@[simp] theorem State.setR4_r4 : (s.setR4 v).r4 = v := rfl
@[simp] theorem State.setR4_pc : (s.setR4 v).pc = s.pc := rfl
@[simp] theorem State.setR4_ram : (s.setR4 v).ram = s.ram := rfl
@[simp] theorem State.setR4_stack : (s.setR4 v).stack = s.stack := rfl
@[simp] theorem State.setR4_term : (s.setR4 v).term = s.term := rfl
@[simp] theorem State.setR4_halted : (s.setR4 v).halted = s.halted := rfl
@[simp] theorem State.setR4_prog : (s.setR4 v).prog = s.prog := rfl
@[simp] theorem State.setR4_cfg : (s.setR4 v).cfg = s.cfg := rfl
end

section
variable (s : State) (v : Byte)
@[simp] theorem State.setPc_r0 : (s.setPc v).r0 = s.r0 := rfl
@[simp] theorem State.setPc_r1 : (s.setPc v).r1 = s.r1 := rfl
@[simp] theorem State.setPc_r2 : (s.setPc v).r2 = s.r2 := rfl
@[simp] theorem State.setPc_r3 : (s.setPc v).r3 = s.r3 := rfl
@[simp] theorem State.setPc_r4 : (s.setPc v).r4 = s.r4 := rfl
@[simp] theorem State.setPc_pc : (s.setPc v).pc = v := rfl
@[simp] theorem State.setPc_ram : (s.setPc v).ram = s.ram := rfl
@[simp] theorem State.setPc_stack : (s.setPc v).stack = s.stack := rfl
@[simp] theorem State.setPc_term : (s.setPc v).term = s.term := rfl
@[simp] theorem State.setPc_halted : (s.setPc v).halted = s.halted := rfl
@[simp] theorem State.setPc_prog : (s.setPc v).prog = s.prog := rfl
@[simp] theorem State.setPc_cfg : (s.setPc v).cfg = s.cfg := rfl
end

section
variable (s : State) (v : Memory)
@[simp] theorem State.setRam_r0 : (s.setRam v).r0 = s.r0 := rfl
@[simp] theorem State.setRam_r1 : (s.setRam v).r1 = s.r1 := rfl
@[simp] theorem State.setRam_r2 : (s.setRam v).r2 = s.r2 := rfl
@[simp] theorem State.setRam_r3 : (s.setRam v).r3 = s.r3 := rfl
@[simp] theorem State.setRam_r4 : (s.setRam v).r4 = s.r4 := rfl
@[simp] theorem State.setRam_pc : (s.setRam v).pc = s.pc := rfl
@[simp] theorem State.setRam_ram : (s.setRam v).ram = v := rfl
@[simp] theorem State.setRam_stack : (s.setRam v).stack = s.stack := rfl
@[simp] theorem State.setRam_term : (s.setRam v).term = s.term := rfl
@[simp] theorem State.setRam_halted : (s.setRam v).halted = s.halted := rfl
@[simp] theorem State.setRam_prog : (s.setRam v).prog = s.prog := rfl
@[simp] theorem State.setRam_cfg : (s.setRam v).cfg = s.cfg := rfl
end

section
variable (s : State) (v : List Byte)
@[simp] theorem State.setStack_r0 : (s.setStack v).r0 = s.r0 := rfl
@[simp] theorem State.setStack_r1 : (s.setStack v).r1 = s.r1 := rfl
@[simp] theorem State.setStack_r2 : (s.setStack v).r2 = s.r2 := rfl
@[simp] theorem State.setStack_r3 : (s.setStack v).r3 = s.r3 := rfl
@[simp] theorem State.setStack_r4 : (s.setStack v).r4 = s.r4 := rfl
@[simp] theorem State.setStack_pc : (s.setStack v).pc = s.pc := rfl
@[simp] theorem State.setStack_ram : (s.setStack v).ram = s.ram := rfl
@[simp] theorem State.setStack_stack : (s.setStack v).stack = v := rfl
@[simp] theorem State.setStack_term : (s.setStack v).term = s.term := rfl
@[simp] theorem State.setStack_halted : (s.setStack v).halted = s.halted := rfl
@[simp] theorem State.setStack_prog : (s.setStack v).prog = s.prog := rfl
@[simp] theorem State.setStack_cfg : (s.setStack v).cfg = s.cfg := rfl
end

section
variable (s : State) (v : List TermEvent)
@[simp] theorem State.setTerm_r0 : (s.setTerm v).r0 = s.r0 := rfl
@[simp] theorem State.setTerm_r1 : (s.setTerm v).r1 = s.r1 := rfl
@[simp] theorem State.setTerm_r2 : (s.setTerm v).r2 = s.r2 := rfl
@[simp] theorem State.setTerm_r3 : (s.setTerm v).r3 = s.r3 := rfl
@[simp] theorem State.setTerm_r4 : (s.setTerm v).r4 = s.r4 := rfl
@[simp] theorem State.setTerm_pc : (s.setTerm v).pc = s.pc := rfl
@[simp] theorem State.setTerm_ram : (s.setTerm v).ram = s.ram := rfl
@[simp] theorem State.setTerm_stack : (s.setTerm v).stack = s.stack := rfl
@[simp] theorem State.setTerm_term : (s.setTerm v).term = v := rfl
@[simp] theorem State.setTerm_halted : (s.setTerm v).halted = s.halted := rfl
@[simp] theorem State.setTerm_prog : (s.setTerm v).prog = s.prog := rfl
@[simp] theorem State.setTerm_cfg : (s.setTerm v).cfg = s.cfg := rfl
end

section
variable (s : State) (v : Bool)
@[simp] theorem State.setHalted_r0 : (s.setHalted v).r0 = s.r0 := rfl
@[simp] theorem State.setHalted_r1 : (s.setHalted v).r1 = s.r1 := rfl
@[simp] theorem State.setHalted_r2 : (s.setHalted v).r2 = s.r2 := rfl
@[simp] theorem State.setHalted_r3 : (s.setHalted v).r3 = s.r3 := rfl
@[simp] theorem State.setHalted_r4 : (s.setHalted v).r4 = s.r4 := rfl
@[simp] theorem State.setHalted_pc : (s.setHalted v).pc = s.pc := rfl
@[simp] theorem State.setHalted_ram : (s.setHalted v).ram = s.ram := rfl
@[simp] theorem State.setHalted_stack : (s.setHalted v).stack = s.stack := rfl
@[simp] theorem State.setHalted_term : (s.setHalted v).term = s.term := rfl
@[simp] theorem State.setHalted_halted : (s.setHalted v).halted = v := rfl
@[simp] theorem State.setHalted_prog : (s.setHalted v).prog = s.prog := rfl
@[simp] theorem State.setHalted_cfg : (s.setHalted v).cfg = s.cfg := rfl
end

section
variable (s : State) (v : List InstrBytes)
@[simp] theorem State.setProg_r0 : (s.setProg v).r0 = s.r0 := rfl
@[simp] theorem State.setProg_r1 : (s.setProg v).r1 = s.r1 := rfl
@[simp] theorem State.setProg_r2 : (s.setProg v).r2 = s.r2 := rfl
@[simp] theorem State.setProg_r3 : (s.setProg v).r3 = s.r3 := rfl
@[simp] theorem State.setProg_r4 : (s.setProg v).r4 = s.r4 := rfl
@[simp] theorem State.setProg_pc : (s.setProg v).pc = s.pc := rfl
@[simp] theorem State.setProg_ram : (s.setProg v).ram = s.ram := rfl
@[simp] theorem State.setProg_stack : (s.setProg v).stack = s.stack := rfl
@[simp] theorem State.setProg_term : (s.setProg v).term = s.term := rfl
@[simp] theorem State.setProg_halted : (s.setProg v).halted = s.halted := rfl
@[simp] theorem State.setProg_prog : (s.setProg v).prog = v := rfl
@[simp] theorem State.setProg_cfg : (s.setProg v).cfg = s.cfg := rfl
end

section
variable (s : State) (v : Config)
@[simp] theorem State.setCfg_r0 : (s.setCfg v).r0 = s.r0 := rfl
@[simp] theorem State.setCfg_r1 : (s.setCfg v).r1 = s.r1 := rfl
@[simp] theorem State.setCfg_r2 : (s.setCfg v).r2 = s.r2 := rfl
@[simp] theorem State.setCfg_r3 : (s.setCfg v).r3 = s.r3 := rfl
@[simp] theorem State.setCfg_r4 : (s.setCfg v).r4 = s.r4 := rfl
@[simp] theorem State.setCfg_pc : (s.setCfg v).pc = s.pc := rfl
@[simp] theorem State.setCfg_ram : (s.setCfg v).ram = s.ram := rfl
@[simp] theorem State.setCfg_stack : (s.setCfg v).stack = s.stack := rfl
@[simp] theorem State.setCfg_term : (s.setCfg v).term = s.term := rfl
@[simp] theorem State.setCfg_halted : (s.setCfg v).halted = s.halted := rfl
@[simp] theorem State.setCfg_prog : (s.setCfg v).prog = s.prog := rfl
@[simp] theorem State.setCfg_cfg : (s.setCfg v).cfg = v := rfl
end

end Sys2Proof.Machine
end

