-- ==== Sys2Proof/Laws/Ops.lean ====
section
/-! SUPPORT. For each shared operation, once, everything it can do. -/

namespace Sys2Proof.Machine

/-- The advance goes to the next slot; it fails only from slot `0xFF` under `PC_WRAP = fault` (R21). -/
theorem State.advance_next_iff (s t : State) :
    s.advance = .next t ↔ ¬(s.cfg.pcWrap = .fault ∧ s.pc = 0xFF) ∧ t = s.setPc s.nextPc := by
  unfold State.advance
  split <;> simp_all [eq_comm]

theorem State.advance_fault (s : State) (f : Fault) (h : s.advance = .fault f) :
    f = .pcWrap ∧ s.cfg.pcWrap = .fault ∧ s.pc = 0xFF := by
  unfold State.advance at h
  split at h <;> simp_all

/-- The check of used registers passes the instruction on, or faults on one of them (R14, R57). -/
theorem State.guard_next (s : State) (used : List (RegField × Reg)) (k : Result) (t : State)
    (h : s.guard used k = .next t) : k = .next t := by
  unfold State.guard at h
  split at h
  · cases h
  · exact h

theorem State.guard_of_allowed (s : State) (used : List (RegField × Reg)) (k : Result)
    (h : ∀ u ∈ used, u.2.allowed s.cfg = true) : s.guard used k = k := by
  have : (used.find? fun u => !u.2.allowed s.cfg) = none := by
    simpa [List.find?_eq_none] using fun f r hm => h (f, r) hm
  simp [State.guard, this]

theorem State.guard_fault (s : State) (used : List (RegField × Reg)) (k : Result) (f : Fault)
    (h : s.guard used k = .fault f) : (∃ u ∈ used, u.2.allowed s.cfg = false ∧ f = .reservedRegister u.1) ∨ k = .fault f := by
  unfold State.guard at h
  split at h
  · rename_i u hu
    refine .inl ⟨u, List.mem_of_find?_eq_some hu, ?_, ?_⟩
    · simpa using List.find?_some hu
    · simpa [eq_comm] using h
  · exact .inr h

/-- What a register write leaves in each part of the state (R17). -/
theorem State.writeReg_fields (s : State) (a4 : Byte) (r : Reg) (v : Byte) :
    (s.writeReg a4 r v).r0 = (if r = .r0 then v else s.r0) ∧ (s.writeReg a4 r v).r1 = (if r = .r1 then v else s.r1) ∧
    (s.writeReg a4 r v).r2 = (if r = .r2 then v else s.r2) ∧ (s.writeReg a4 r v).r3 = (if r = .r3 then v else s.r3) ∧
    (s.writeReg a4 r v).r4 = (if r = .r4 then v else s.r4) ∧ (s.writeReg a4 r v).pc = (if r = .r7 then v else s.pc) ∧
    (s.writeReg a4 r v).ram = (if r = .r5 then s.ram.write a4.toNat v else s.ram) := by
  cases r <;> simp [State.writeReg]

@[simp] theorem State.writeReg_stack (s : State) (a4 : Byte) (r : Reg) (v : Byte) :
    (s.writeReg a4 r v).stack = s.stack := by cases r <;> rfl
@[simp] theorem State.writeReg_term (s : State) (a4 : Byte) (r : Reg) (v : Byte) :
    (s.writeReg a4 r v).term = s.term := by cases r <;> rfl
@[simp] theorem State.writeReg_halted (s : State) (a4 : Byte) (r : Reg) (v : Byte) :
    (s.writeReg a4 r v).halted = s.halted := by cases r <;> rfl
@[simp] theorem State.writeReg_prog (s : State) (a4 : Byte) (r : Reg) (v : Byte) :
    (s.writeReg a4 r v).prog = s.prog := by cases r <;> rfl
@[simp] theorem State.writeReg_cfg (s : State) (a4 : Byte) (r : Reg) (v : Byte) :
    (s.writeReg a4 r v).cfg = s.cfg := by cases r <;> rfl

theorem State.writeReg_wf (s : State) (a4 : Byte) (r : Reg) (v : Byte) (h : s.ram.wf = true) :
    (s.writeReg a4 r v).ram.wf = true := by
  rw [(s.writeReg_fields a4 r v).2.2.2.2.2.2]
  split
  · exact Memory.write_wf _ _ _ h a4.isLt
  · exact h

/-- A write-back ends in the register write, with `pc` advanced unless it was the destination (R17, R21, R23). -/
theorem State.writeBack_next (s : State) (d : Reg) (v : Byte) (t : State) (h : s.writeBack d v = .next t) :
    t = if d = .r7 then s.setPc v else (s.writeReg s.r4 d v).setPc s.nextPc := by
  unfold State.writeBack at h
  by_cases hd : d = .r7
  · simpa [hd, eq_comm] using h
  · rw [if_neg hd, State.advance_next_iff] at h
    simp only [hd, if_false]
    rw [h.2]
    simp [State.nextPc, (s.writeReg_fields s.r4 d v).2.2.2.2.2.1, hd]

/-- A write-back faults only by its automatic advance (R21). -/
theorem State.writeBack_fault (s : State) (d : Reg) (v : Byte) (f : Fault) (h : s.writeBack d v = .fault f) :
    f = .pcWrap ∧ s.cfg.pcWrap = .fault ∧ s.pc = 0xFF ∧ d ≠ .r7 := by
  unfold State.writeBack at h
  by_cases hd : d = .r7
  · simp [hd] at h
  · rw [if_neg hd] at h
    have := State.advance_fault _ _ h
    simpa [(s.writeReg_fields s.r4 d v).2.2.2.2.2.1, hd] using this

/-- A write-back completes unless its automatic advance faults. -/
theorem State.writeBack_eq (s : State) (d : Reg) (v : Byte) (h : d = .r7 ∨ ¬(s.cfg.pcWrap = .fault ∧ s.pc = 0xFF)) :
    s.writeBack d v = .next (if d = .r7 then s.setPc v else (s.writeReg s.r4 d v).setPc s.nextPc) := by
  unfold State.writeBack
  by_cases hd : d = .r7
  · simp [hd]
  · rw [if_neg hd, if_neg hd, State.advance_next_iff]
    have hp := (s.writeReg_fields s.r4 d v).2.2.2.2.2.1
    simp_all [State.nextPc]

/-- A conditional jump ends at its target or at the next slot (R100). -/
theorem State.jumpIf_next (s : State) (c : Bool) (x : Byte) (t : State) (h : s.jumpIf c x = .next t) :
    t = s.setPc (if c then x else s.nextPc) := by
  unfold State.jumpIf at h
  split at h
  · simp_all [eq_comm]
  · simp_all [State.advance_next_iff]

theorem State.jumpIf_fault (s : State) (c : Bool) (x : Byte) (f : Fault) (h : s.jumpIf c x = .fault f) :
    c = false ∧ f = .pcWrap ∧ s.cfg.pcWrap = .fault ∧ s.pc = 0xFF := by
  unfold State.jumpIf at h
  split at h
  · cases h
  · exact ⟨by simp_all, State.advance_fault _ _ h⟩

theorem State.jumpIf_eq (s : State) (c : Bool) (x : Byte) (h : c = true ∨ ¬(s.cfg.pcWrap = .fault ∧ s.pc = 0xFF)) :
    s.jumpIf c x = .next (s.setPc (if c then x else s.nextPc)) := by
  unfold State.jumpIf
  cases c
  · simpa [State.advance_next_iff] using h
  · simp

/-- `Push` goes on with the byte on top, or the stack was full (R25). -/
theorem State.push_next (s : State) (v : Byte) (k : State → Result) (t : State) (h : s.push v k = .next t) :
    s.stackFull = false ∧ k (s.setStack (v :: s.stack)) = .next t := by
  unfold State.push at h
  split at h
  · cases h
  · exact ⟨by simpa using ‹¬s.stackFull = true›, h⟩

theorem State.push_fault (s : State) (v : Byte) (k : State → Result) (f : Fault) (h : s.push v k = .fault f) :
    (s.stackFull = true ∧ f = .stackOverflow) ∨ k (s.setStack (v :: s.stack)) = .fault f := by
  unfold State.push at h
  split at h
  · exact .inl ⟨‹_›, by simpa [eq_comm] using h⟩
  · exact .inr h

/-- `Pop` goes on with the top byte removed, or the stack was empty (R25). -/
theorem State.pop_next (s : State) (k : Byte → State → Result) (t : State) (h : s.pop k = .next t) :
    ∃ v below, s.stack = v :: below ∧ k v (s.setStack below) = .next t := by
  unfold State.pop at h
  split at h
  · cases h
  · exact ⟨_, _, ‹_›, h⟩

theorem State.pop_fault (s : State) (k : Byte → State → Result) (f : Fault) (h : s.pop k = .fault f) :
    (s.stack = [] ∧ f = .stackUnderflow) ∨ ∃ v below, s.stack = v :: below ∧ k v (s.setStack below) = .fault f := by
  unfold State.pop at h
  split at h
  · exact .inl ⟨‹_›, by simpa [eq_comm] using h⟩
  · exact .inr ⟨_, _, ‹_›, h⟩

/-- A stack that is not full may take one more byte (R25). -/
theorem State.not_stackFull (s : State) (h : s.stackFull = false) (depth : Nat) (hd : s.cfg.stackDepth = some depth) :
    s.stack.length < depth := by
  simpa [State.stackFull, hd] using h

/-- The slot a program holds where it was placed (R28). -/
@[simp] theorem placeSlot_get (p : List InstrBytes) (n : Nat) (w : InstrBytes) : (placeSlot p n w)[n]? = some w := by
  induction n generalizing p with
  | zero => cases p <;> rfl
  | succ n ih => cases p <;> simp [placeSlot, ih]

/-- The step after `withFetchWord` decodes and runs that word (R172). -/
theorem step_withFetchWord (s : State) (nbits w : Nat) :
    step (s.withFetchWord nbits w) =
      match decode s.cfg (.ofTableWord nbits w) with
      | .error e => .fault (faultOfDecode e)
      | .ok i => exec i (s.withFetchWord nbits w) := by
  cases h : decode s.cfg (.ofTableWord nbits w) <;> simp [step, State.withFetchWord, State.fetch, h]

end Sys2Proof.Machine
end

