-- ==== Sys2Proof/Laws/PerInstr.lean ====
section
/-! SUPPORT. A statement about every instruction as syntax: its canonical opcode byte leaves the reserved bit clear and its
class is one of the three defined ones (spec R52, R54, R65). -/

namespace Sys2Proof.Laws.CanonicalOpcode

/-- The opcode byte of the encoded instruction has bit 7 clear (R52) and a class other than `11` (R62). -/
def Statement (i : Instr) : Prop :=
  rsvBit (encode i).b0 = false ∧ classOf (encode i).b0 ≠ 3

/-- The base of a row, whatever its immediate flags. -/
theorem opcode_canonical (base : Byte) (i1 i2 : Bool) (h : base.toNat < 0x18) :
    rsvBit (opcode base i1 i2) = false ∧ classOf (opcode base i1 i2) ≠ 3 := by
  revert base
  cases i1 <;> cases i2 <;> decide

theorem and (a : Operand) (b : Operand) (d : Reg) : Statement (.and a b d) :=
  opcode_canonical _ _ _ (by decide)
theorem ror (a : Operand) (b : Operand) (d : Reg) : Statement (.ror a b d) :=
  opcode_canonical _ _ _ (by decide)
theorem add (a : Operand) (b : Operand) (d : Reg) : Statement (.add a b d) :=
  opcode_canonical _ _ _ (by decide)
theorem xor (a : Operand) (b : Operand) (d : Reg) : Statement (.xor a b d) :=
  opcode_canonical _ _ _ (by decide)
theorem or (a : Operand) (b : Operand) (d : Reg) : Statement (.or a b d) :=
  opcode_canonical _ _ _ (by decide)
theorem rol (a : Operand) (b : Operand) (d : Reg) : Statement (.rol a b d) :=
  opcode_canonical _ _ _ (by decide)
theorem sub (a : Operand) (b : Operand) (d : Reg) : Statement (.sub a b d) :=
  opcode_canonical _ _ _ (by decide)
theorem not (a : Operand) (d : Reg) : Statement (.not a d) :=
  opcode_canonical _ _ _ (by decide)
theorem jmp (t : Target) : Statement (.jmp t) := by
  cases t with
  | op1 o => exact opcode_canonical _ _ _ (by decide)
  | reg r => exact opcode_canonical 0x08 false false (by decide)
  | literal n => exact opcode_canonical 0x08 false false (by decide)
theorem jne (a : Operand) (b : Operand) (t : Target) : Statement (.jne a b t) :=
  opcode_canonical _ _ _ (by decide)
theorem jge (a : Operand) (b : Operand) (t : Target) : Statement (.jge a b t) :=
  opcode_canonical _ _ _ (by decide)
theorem jgt (a : Operand) (b : Operand) (t : Target) : Statement (.jgt a b t) :=
  opcode_canonical _ _ _ (by decide)
theorem nop : Statement (.nop) := ⟨by decide, by decide⟩
theorem jeq (a : Operand) (b : Operand) (t : Target) : Statement (.jeq a b t) :=
  opcode_canonical _ _ _ (by decide)
theorem jlt (a : Operand) (b : Operand) (t : Target) : Statement (.jlt a b t) :=
  opcode_canonical _ _ _ (by decide)
theorem jle (a : Operand) (b : Operand) (t : Target) : Statement (.jle a b t) :=
  opcode_canonical _ _ _ (by decide)
theorem mov (a : Operand) (d : Reg) : Statement (.mov a d) :=
  opcode_canonical _ _ _ (by decide)
theorem swap (a : Reg) (d : Reg) : Statement (.swap a d) :=
  opcode_canonical 0x11 false false (by decide)
theorem push (a : Operand) : Statement (.push a) :=
  opcode_canonical _ _ _ (by decide)
theorem pop (d : Reg) : Statement (.pop d) :=
  opcode_canonical 0x13 false false (by decide)
theorem wrt (a : Operand) (b : Operand) : Statement (.wrt a b) :=
  opcode_canonical _ _ _ (by decide)
theorem call (a : Operand) : Statement (.call a) :=
  opcode_canonical _ _ _ (by decide)
theorem jre : Statement (.jre) := ⟨by decide, by decide⟩
theorem hcf : Statement (.hcf) := ⟨by decide, by decide⟩

end Sys2Proof.Laws.CanonicalOpcode
end

