-- ==== Sys2Proof/Tests/Slice0.lean ====
section
/-! SUPPORT. Tests: what WellFormed refuses, one word of every instruction written out from the spec's encodings, steps from
the examples and vectors of the spec, and a witness for the hypotheses of every obligation that has some. -/

namespace Sys2Proof.Tests
open Sys2Proof Sys2Proof.Machine Sys2Proof.Claims

/-! ## Small states and choices of parameters -/

/-- After reset, about to run the word `w` in slot `pc`. -/
def at_ (pc : Byte) (w : Nat) : State := (State.reset.setPc pc).withFetchWord 32 w
/-- The parts of the next state a test looks at. -/
def look {α : Type} (s : State) (f : State → α) : Option α :=
  match step s with
  | .next t => some (f t)
  | _ => none
/-- The fault a step stops with. -/
def stop (s : State) : Option Fault :=
  match step s with
  | .fault f => some f
  | _ => none

def documented : Config := { Config.default with r6 := .documented }
def low3 : Config := { Config.default with regIdx := .low3 }
def ignoreBit7 : Config := { Config.default with bit7 := .ignore }
def ignoreI2 : Config := { Config.default with movI2 := .ignore }
def literalTarget : Config := { Config.default with jumpTarget := .destLiteral }
def op1Target : Config := { Config.default with jumpTarget := .op1Value }
def wrapFault : Config := { Config.default with pcWrap := .fault }
def currentPc : Config := { Config.default with pcRead := .current }
def logicalNot : Config := { Config.default with notKind := .logical }
def lowFormat : Config := { Config.default with wrtFmt := .low2 }
def depth (n : Nat) : Config := { Config.default with stackDepth := some n }
/-- Reset under other parameters. -/
def under (c : Config) : State := State.launch c []

/-! ## What WellFormed refuses -/

theorem test_wf_refuses_r6_operand : (Instr.add (.reg .r6) (.imm 1) .r0).wf Config.default = false := by decide
theorem test_wf_refuses_r6_operand2 : (Instr.wrt (.imm 1) (.reg .r6)).wf Config.default = false := by decide
theorem test_wf_refuses_r6_dest : (Instr.mov (.imm 1) .r6).wf Config.default = false := by decide
theorem test_wf_refuses_r6_swap : (Instr.swap .r6 .r0).wf Config.default = false := by decide
theorem test_wf_allows_documented_r6 : (Instr.mov (.reg .r6) .r6).wf documented = true := by decide
theorem test_wf_refuses_literal_target : (Instr.jeq (.imm 0) (.imm 0) (.literal 0x10)).wf Config.default = false := by decide
theorem test_wf_refuses_register_target : (Instr.jmp (.reg .r1)).wf literalTarget = false := by decide
theorem test_wf_refuses_r6_target : (Instr.jne (.imm 0) (.imm 0) (.reg .r6)).wf Config.default = false := by decide
theorem test_wf_refuses_op1_target : (Instr.jlt (.imm 0) (.imm 0) (.op1 (.imm 0))).wf op1Target = false := by decide
theorem test_wf_refuses_op1_jmp_by_default : (Instr.jmp (.op1 (.imm 0x10))).wf Config.default = false := by decide
theorem test_wf_refuses_r6_op1_jmp : (Instr.jmp (.op1 (.reg .r6))).wf op1Target = false := by decide

/-! ## One word of every instruction, from its rule's example (40_alu.md, 41_cond.md, 42_io.md) -/

theorem test_decode_and : decodeTableWord 32 0x20005501 = some (.and (.reg .r0) (.imm 0x55) .r1) := by decide
theorem test_decode_ror : decodeTableWord 32 0x21000101 = some (.ror (.reg .r0) (.imm 0x01) .r1) := by decide
theorem test_decode_add : decodeTableWord 32 0x02000102 = some (.add (.reg .r0) (.reg .r1) .r2) := by decide
theorem test_decode_xor : decodeTableWord 32 0x23005500 = some (.xor (.reg .r0) (.imm 0x55) .r0) := by decide
theorem test_decode_or : decodeTableWord 32 0x24000501 = some (.or (.reg .r0) (.imm 0x05) .r1) := by decide
theorem test_decode_rol : decodeTableWord 32 0x25000101 = some (.rol (.reg .r0) (.imm 0x01) .r1) := by decide
theorem test_decode_sub : decodeTableWord 32 0x26008001 = some (.sub (.reg .r0) (.imm 0x80) .r1) := by decide
theorem test_decode_not : decodeTableWord 32 0x07000001 = some (.not (.reg .r0) .r1) := by decide
theorem test_decode_jmp : decodeTableWord 32 0x08000001 = some (.jmp (.reg .r1)) := by decide
theorem test_decode_jne : decodeTableWord 32 0x29041403 = some (.jne (.reg .r4) (.imm 0x14) (.reg .r3)) := by decide
theorem test_decode_jge : decodeTableWord 32 0x2A008001 = some (.jge (.reg .r0) (.imm 0x80) (.reg .r1)) := by decide
theorem test_decode_jgt : decodeTableWord 32 0x0B000102 = some (.jgt (.reg .r0) (.reg .r1) (.reg .r2)) := by decide
theorem test_decode_nop : decodeTableWord 32 0x0C000000 = some .nop := by decide
theorem test_decode_jeq : decodeTableWord 32 0x2D010002 = some (.jeq (.reg .r1) (.imm 0x00) (.reg .r2)) := by decide
theorem test_decode_jlt : decodeTableWord 32 0x2E000A01 = some (.jlt (.reg .r0) (.imm 0x0A) (.reg .r1)) := by decide
theorem test_decode_jle : decodeTableWord 32 0x2F000403 = some (.jle (.reg .r0) (.imm 0x04) (.reg .r3)) := by decide
theorem test_decode_mov : decodeTableWord 32 0x10000001 = some (.mov (.reg .r0) .r1) := by decide
theorem test_decode_swap : decodeTableWord 32 0x11000001 = some (.swap .r0 .r1) := by decide
theorem test_decode_push : decodeTableWord 32 0x522A0000 = some (.push (.imm 0x2A)) := by decide
theorem test_decode_pop : decodeTableWord 32 0x13000002 = some (.pop .r2) := by decide
theorem test_decode_wrt : decodeTableWord 32 0x34000100 = some (.wrt (.reg .r0) (.imm 0x01)) := by decide
theorem test_decode_call : decodeTableWord 32 0x55050000 = some (.call (.imm 0x05)) := by decide
theorem test_decode_jre : decodeTableWord 32 0x16000000 = some .jre := by decide
theorem test_decode_hcf : decodeTableWord 32 0x17000000 = some .hcf := by decide

/-! ## One step, from the examples of the rules and the vectors of 95_test_vectors.md -/

theorem test_and : look ((at_ 0 0x20005501).setR0 0xF3) (·.r1) = some 0x51 := by decide
theorem test_ror : look ((at_ 0 0x21000101).setR0 0x81) (·.r1) = some 0xC0 := by decide
theorem test_add_wraps : look (((at_ 0 0x02000102).setR0 0xC8).setR1 0x64) (·.r2) = some 0x2C := by decide
theorem test_xor : look ((at_ 0 0x23005500).setR0 0xAA) (·.r0) = some 0xFF := by decide
theorem test_or : look ((at_ 0 0x24000501).setR0 0xA0) (·.r1) = some 0xA5 := by decide
theorem test_rol : look ((at_ 0 0x25000101).setR0 0x81) (·.r1) = some 0x03 := by decide
theorem test_sub : look ((at_ 0 0x26008001).setR0 0xFF) (·.r1) = some 0x7F := by decide
theorem test_not : look ((at_ 0 0x07000001).setR0 0x55) (·.r1) = some 0xAA := by decide
theorem test_jmp : look ((at_ 0x05 0x08000001).setR1 0x10) (·.pc) = some 0x10 := by decide
theorem test_jne_taken : look (((at_ 0x0C 0x29041403).setR4 0x11).setR3 0x0A) (·.pc) = some 0x0A := by decide
theorem test_jne_not_taken : look (((at_ 0x0C 0x29041403).setR4 0x14).setR3 0x0A) (·.pc) = some 0x0D := by decide
theorem test_jge_unsigned : look (((at_ 0x02 0x2A008001).setR0 0x80).setR1 0x20) (·.pc) = some 0x20 := by decide
theorem test_jge_not_taken : look (((at_ 0x02 0x2A008001).setR0 0x7F).setR1 0x20) (·.pc) = some 0x03 := by decide
theorem test_jgt_equal : look (((at_ 0x04 0x0B000102).setR0 0x01).setR1 0x01) (·.pc) = some 0x05 := by decide
theorem test_nop : look (at_ 0x07 0x0C000000) (·.pc) = some 0x08 := by decide
theorem test_nop_last_slot_wraps : look (at_ 0xFF 0x0C000000) (·.pc) = some 0x00 := by decide
theorem test_jeq_taken : look ((at_ 0x05 0x2D010002).setR2 0x07) (·.pc) = some 0x07 := by decide
theorem test_jlt_equal : look (((at_ 0x04 0x2E000A01).setR0 0x0A).setR1 0x02) (·.pc) = some 0x05 := by decide
theorem test_jle_equal : look (((at_ 0x06 0x2F000403).setR0 0x04).setR3 0x03) (·.pc) = some 0x03 := by decide
theorem test_mov : look ((at_ 0 0x10000001).setR0 0x42) (·.r1) = some 0x42 := by decide
theorem test_mov_reads_r7 : look (at_ 0x09 0x10070000) (·.r0) = some 0x0A := by decide
theorem test_swap : look (((at_ 0 0x11000001).setR0 0x12).setR1 0x34) (fun t => (t.r0, t.r1)) = some (0x34, 0x12) := by decide
theorem test_swap_r4_r5_stores_at_old_address :
    look (((at_ 0 0x11040005).setR4 0x20).setRam [(0x20, 0x99)]) (fun t => (t.r4, t.ram)) = some (0x99, [(0x20, 0x20)]) := by decide
theorem test_push : look (at_ 0 0x522A0000) (·.stack) = some [0x2A] := by decide
theorem test_pop : look ((at_ 0 0x13000002).setStack [0x2A, 0x07]) (fun t => (t.r2, t.stack)) = some (0x2A, [0x07]) := by decide
theorem test_pop_empty_faults : stop (at_ 0 0x13000000) = some .stackUnderflow := by decide
theorem test_wrt_decimal : look ((at_ 0 0x34000100).setR0 0x07) (·.term) = some [.char 0x37] := by decide
theorem test_wrt_hex_16_is_question : look (at_ 0 0x74100300) (·.term) = some [.char 0x3F] := by decide
theorem test_call : look (at_ 0x01 0x55050000) (fun t => (t.stack, t.pc)) = some ([0x02], 0x05) := by decide
theorem test_jre_back : look ((at_ 0x06 0x16000000).setR0 0xFC) (·.pc) = some 0x03 := by decide
theorem test_hcf : look (at_ 0x05 0x17000000) (fun t => (t.halted, t.pc)) = some (true, 0x06) := by decide
theorem test_jmp_example_is_and : look ((at_ 0x05 0x40100000).setR0 0x3C) (fun t => (t.r0, t.pc)) = some (0x10, 0x06) := by decide
theorem test_bit7_faults : stop (at_ 0 0x82000102) = some (.illegalInstruction .bit7) := by decide
theorem test_operand_8_faults : stop (at_ 0 0x02080102) = some (.illegalOperand .op1) := by decide
theorem test_reset_has_no_program : stop State.reset = some (.fetchOutsideProgram 0x00) := by decide

/-! ## Witnesses: concrete states and operands that meet the hypotheses of the obligations -/

theorem witness_Advances : Advances State.reset ∧ Advances ((under wrapFault).setPc 0xFE) ∧ ¬Advances ((under wrapFault).setPc 0xFF) ∧
    Advances (State.reset.setPc 0xFF) := by
  unfold Advances; decide
theorem witness_HasRoom : HasRoom ((under (depth 2)).setStack [1]) ∧ ¬HasRoom ((under (depth 2)).setStack [1, 2]) :=
  ⟨fun _ h => by cases h; decide, fun h => absurd (h 2 rfl) (by decide)⟩

theorem witness_DecodeEncodeRoundTrip :
    (Instr.add (.reg .r5) (.imm 0xFF) .r7).wf Config.default = true ∧ (Instr.jmp (.reg .r7)).wf Config.default = true ∧
    (Instr.jmp (.literal 0xFF)).wf literalTarget = true ∧ (Instr.jmp (.op1 (.imm 0x10))).wf op1Target = true := by decide
theorem witness_DecodedIsWellFormed : decode Config.default ⟨0x13, 0x06, 0x06, 0x07⟩ = .ok (.pop .r7) := by decide
theorem witness_IgnoredFieldsDecodeAlike :
    let w : InstrBytes := ⟨0x07, 0x01, 0xFF, 0x02⟩
    let u : InstrBytes := ⟨0x27, 0x01, 0x00, 0x02⟩
    Config.default.jumpTarget ≠ .op1Value ∧ rsvBit w.b0 = rsvBit u.b0 ∧ row w.b0 = row u.b0 ∧
    (usesOp1 (row w.b0) = true → flag1 w.b0 = flag1 u.b0 ∧ w.b1 = u.b1) ∧
    (usesOp2 (row w.b0) = true ∨ row w.b0 = 16 → flag2 w.b0 = flag2 u.b0) ∧
    (usesOp2 (row w.b0) = true → w.b2 = u.b2) ∧ (usesDest (row w.b0) = true → w.b3 = u.b3) ∧ w ≠ u := by decide
theorem witness_ReservedOpcodeBit : rsvBit 0x80 = true ∧ rsvBit 0xFF = true ∧ Config.default.bit7 = .fault ∧ ignoreBit7.bit7 = .ignore := by
  decide
theorem witness_ClassThreeFaults :
    (at_ 0 0x18000000).halted = false ∧ (at_ 0 0x18000000).fetch = some ⟨0x18, 0, 0, 0⟩ ∧ classOf 0x18 = 3 ∧ classOf 0x7F = 3 := by
  decide
theorem witness_RegisterFieldsCheckedInOrder :
    Config.default.jumpTarget = .destRegister ∧ LegalOpcode 0x02 ∧
    fieldFault Config.default .op1 (usesOp1 (row 0x02)) (flag1 0x02) 0x08 = some (.illegalOperand .op1) ∧
    fieldFault Config.default .op2 (usesOp2 (row 0x02)) (flag2 0x02) 0x06 = some (.reservedRegister .op2) ∧
    fieldFault Config.default .dest (usesDest (row 0x02)) false 0x07 = none := by
  unfold LegalOpcode; decide

/-- A jump decoded under `c`, with the condition and target `JumpTargetReadings` looks at. -/
def jumpSeen (c : Config) (w : InstrBytes) : Option (Bool × Target) :=
  match decode c w with
  | .ok i => condition (under c) i
  | .error _ => none
theorem witness_JumpTargetReadings_literal :
    jumpSeen literalTarget ⟨0x08, 0, 0, 0x10⟩ = some (true, .literal 0x10) ∧ (under literalTarget).cfg.jumpTarget = .destLiteral := by decide
theorem witness_JumpTargetReadings_register :
    jumpSeen Config.default ⟨0x6D, 1, 2, 0x07⟩ = some (false, .reg .r7) ∧ State.reset.cfg.jumpTarget = .destRegister := by decide
theorem witness_JumpTargetReadings_op1_immediate :
    jumpSeen op1Target ⟨0x48, 0x10, 0, 0xFF⟩ = some (true, .op1 (.imm 0x10)) ∧ (under op1Target).cfg.jumpTarget = .op1Value ∧
    row 0x48 = 8 ∧ flag1 0x48 = true := by decide
theorem witness_JumpTargetReadings_op1_register :
    jumpSeen op1Target ⟨0x08, 0x07, 0, 0xFF⟩ = some (true, .op1 (.reg .r7)) ∧ row 0x08 = 8 ∧ flag1 0x08 = false := by decide
theorem witness_JumpTargetReadings_op1_compare :
    jumpSeen op1Target ⟨0x6F, 1, 1, 0x03⟩ = some (true, .reg .r3) ∧ row 0x6F ≠ 8 := by decide

theorem witness_ResetLeaves :
    { Config.default with resetRegs := .zero }.resetRegs = .zero ∧ Config.default.resetRegs = .undef 0 0 0 0 0 := by decide
theorem witness_StepRunsDecodedInstruction :
    let s := at_ 0xFF 0x17000000
    s.halted = false ∧ s.prog[s.pc.toNat]? = some ⟨0x17, 0, 0, 0⟩ ∧ decode s.cfg ⟨0x17, 0, 0, 0⟩ = .ok .hcf := by decide
theorem witness_StepWithoutInstruction :
    (State.reset.setHalted true).halted = true ∧
    (State.reset.halted = false ∧ State.reset.prog.length ≤ State.reset.pc.toNat) ∧
    ((at_ 0 0x10000006).prog[(at_ 0 0x10000006).pc.toNat]? = some ⟨0x10, 0, 0, 0x06⟩ ∧
      decode (at_ 0 0x10000006).cfg ⟨0x10, 0, 0, 0x06⟩ = .error (.reservedRegister .dest)) := by decide
theorem witness_RegisterReads : (State.reset.setPc 0xFF).cfg.pcRead = .next ∧ ((under currentPc).setPc 0xFF).cfg.pcRead = .current := by decide
theorem witness_ReservedRegisterStops :
    State.reset.cfg.r6 = .fault ∧ .r6 ∈ usedRegs (.jeq (.imm 0) (.imm 1) (.reg .r6)) ∧ .r6 ∈ usedRegs (.swap .r6 .r0) := by decide

/-- The program `w` in slot 0 under other parameters. -/
def running (c : Config) (w : Nat) : State := (under c).withFetchWord 32 w
/-- `JEQ` with `r6` as its target register, and `JMP` with `r6` in operand 1 under `op1_value`. -/
theorem witness_ReservedRegisterStopsAtDecode :
    let w : InstrBytes := ⟨0x6D, 0, 1, 0x06⟩
    let s := at_ 0 0x6D000106
    s.halted = false ∧ s.fetch = some w ∧ s.cfg.r6 = .fault ∧ (∀ why, decode s.cfg w ≠ .error (.illegalInstruction why)) ∧
    (∀ g, isRegField s.cfg w g = true → regOfByte s.cfg (fieldByte w g) ≠ none) ∧
    isRegField s.cfg w .dest = true ∧ regOfByte s.cfg (fieldByte w .dest) = some .r6 ∧
    isRegField op1Target ⟨0x08, 0x06, 0, 0xFF⟩ .op1 = true ∧ isRegField op1Target ⟨0x08, 0x06, 0, 0xFF⟩ .dest = false ∧
    isRegField literalTarget w .dest = false :=
  ⟨by decide, by decide, by decide, fun why => by cases why <;> decide, fun g => by cases g <;> decide, by decide, by decide, by decide,
    by decide, by decide⟩
theorem test_r6_stops_at_decode : stop (at_ 0 0x6D000106) = some (.reservedRegister .dest) := by decide

/-- For the three ALU obligations and `NotResult`: a well-formed instruction that completes, with `r7` and with another
destination, and one that faults in each way. -/
theorem witness_AluRule :
    (Instr.and (.reg .r5) (.imm 0xFF) .r7).wf (under wrapFault).cfg = true ∧
    ((Instr.ror (.reg .r0) (.imm 8) .r5).wf State.reset.cfg = true ∧ Advances State.reset) ∧
    exec (.add (.reg .r6) (.imm 0) .r0) State.reset = .fault (.reservedRegister .op1) ∧
    exec (.sub (.imm 0) (.imm 1) .r0) ((under wrapFault).setPc 0xFF) = .fault .pcWrap :=
  ⟨by decide, ⟨by decide, witness_Advances.1⟩, rfl, rfl⟩
theorem witness_NotResult :
    (Instr.not (.imm 0x00) .r7).wf (under logicalNot).cfg = true ∧ (under logicalNot).cfg.notKind = .logical ∧
    (Instr.not (.imm 0xFF) .r0).wf State.reset.cfg = true ∧ State.reset.cfg.notKind = .bitwise ∧ Advances State.reset :=
  ⟨by decide, by decide, by decide, by decide, witness_Advances.1⟩
/-- For `EqualityJumps` and `OrderingJumps`: each condition met and not met at equal values, and both faults. -/
theorem witness_CompareRule :
    (Instr.jeq (.imm 0x80) (.imm 0x80) (.reg .r7)).wf State.reset.cfg = true ∧
    State.reset.value (.imm 0x80) = State.reset.value (.imm 0x80) ∧
    (State.reset.value (.imm 0x80)).toNat ≥ (State.reset.value (.imm 0x7F)).toNat ∧
    ¬(State.reset.value (.imm 0x7F)).toNat ≥ (State.reset.value (.imm 0x80)).toNat ∧
    Advances State.reset ∧
    exec (.jge (.imm 0) (.imm 1) (.reg .r6)) State.reset = .fault (.reservedRegister .dest) ∧
    exec (.jlt (.imm 1) (.imm 1) (.reg .r0)) ((under wrapFault).setPc 0xFF) = .fault .pcWrap :=
  ⟨by decide, rfl, by decide, by decide, witness_Advances.1, rfl, rfl⟩
theorem witness_JumpAlways :
    (Instr.jmp (.reg .r7)).wf State.reset.cfg = true ∧ (Instr.jmp (.literal 0x06)).wf (under literalTarget).cfg = true ∧
    (Instr.jmp (.op1 (.reg .r5))).wf (under op1Target).cfg = true := by decide
theorem witness_NopDoesNothing :
    Config.default.bit7 = .fault ∧ Advances (State.reset.setPc 0xFF) ∧ exec .nop ((under wrapFault).setPc 0xFF) = .fault .pcWrap :=
  ⟨by decide, witness_Advances.2.2.2, rfl⟩
theorem witness_SubtypeBitTwoNegates :
    decode State.reset.cfg ⟨0x6E, 0x00, 0xFF, 0x07⟩ = .ok (.jlt (.imm 0x00) (.imm 0xFF) (.reg .r7)) ∧ classOf 0x6E = 1 ∧
    (usesOp1 (row 0x6E) = true ∧ usesOp2 (row 0x6E) = true) ∧
    decode State.reset.cfg ⟨0x0C, 0x06, 0x06, 0x06⟩ = .ok .nop ∧ classOf 0x0C = 1 ∧ Advances State.reset :=
  ⟨by decide, by decide, by decide, by decide, by decide, witness_Advances.1⟩
theorem witness_JumpReadingsAgree :
    let s := State.reset.setR3 0x03
    Reg.r3.allowed s.cfg = true ∧ (Operand.imm 0x03).wf s.cfg = true ∧ s.readReg .r3 = 0x03 ∧ s.value (.imm 0x03) = 0x03 := by decide
/-- A comparing jump and a `JMP` whose three readings agree on slot 3. -/
theorem witness_JumpReadingsAgreeOnAWord :
    let s := (at_ 0 0x48030003).setR3 0x03
    let w : InstrBytes := ⟨0x48, 0x03, 0, 0x03⟩
    s.fetch = some w ∧ classOf w.b0 = 1 ∧ regOfByte s.cfg w.b3 = some .r3 ∧ Reg.r3.allowed s.cfg = true ∧ s.readReg .r3 = w.b3 ∧
    (∃ o, decodeOp1 s.cfg w = .ok o ∧ s.value o = w.b3) ∧
    ((at_ 0 0x6D000003).setR3 0x03).fetch = some ⟨0x6D, 0, 0, 0x03⟩ ∧ classOf 0x6D = 1 ∧ row 0x6D ≠ 8 :=
  ⟨by decide, by decide, by decide, by decide, by decide, ⟨.imm 0x03, rfl, rfl⟩, by decide, by decide, by decide⟩
theorem test_jump_readings_agree :
    look ((running literalTarget 0x48030003).setR3 0x03) (·.pc) = some 0x03 ∧
    look ((running op1Target 0x48030003).setR3 0x03) (·.pc) = some 0x03 := by decide
theorem witness_MovResult :
    (Instr.mov (.reg .r5) .r7).wf (under ignoreI2).cfg = true ∧ (under ignoreI2).cfg.movI2 = .ignore ∧
    (Instr.mov (.imm 0xFF) .r5).wf State.reset.cfg = true ∧ State.reset.cfg.movI2 = .fault ∧ Advances State.reset :=
  ⟨by decide, by decide, by decide, by decide, witness_Advances.1⟩
theorem witness_SwapResult :
    (Instr.swap .r4 .r5).wf State.reset.cfg = true ∧ Advances State.reset ∧ (Instr.swap .r7 .r7).wf (under wrapFault).cfg = true ∧
    (row 0x51 = 17 ∧ flag1 0x51 = true) ∧ (row 0xF1 = 17 ∧ flag1 0xF1 = true) :=
  ⟨by decide, witness_Advances.1, by decide, by decide, by decide⟩
theorem witness_PushResult :
    let s := (under (depth 2)).setStack [1]
    ((Instr.push (.reg .r7)).wf s.cfg = true ∧ HasRoom s ∧ Advances s) ∧
    ((Instr.push (.imm 0)).wf (under (depth 0)).cfg = true ∧ ¬HasRoom (under (depth 0))) :=
  ⟨⟨by decide, witness_HasRoom.1, fun h => absurd h.1 (by decide)⟩, by decide, fun h => absurd (h 0 rfl) (by decide)⟩
theorem witness_PopResult :
    (Instr.pop .r5).wf State.reset.cfg = true ∧ (State.reset.setStack [0xFF]).stack = [0xFF] ∧ Advances (State.reset.setStack [0xFF]) ∧
    (Instr.pop .r7).wf State.reset.cfg = true ∧ State.reset.stack = [] :=
  ⟨by decide, rfl, fun h => absurd h.1 (by decide), by decide, rfl⟩
theorem witness_WrtResult :
    ((Instr.wrt (.imm 0x80) (.imm 3)).wf State.reset.cfg = true ∧ (State.reset.value (.imm 3)).toNat ≤ 3 ∧ Advances State.reset) ∧
    ((under lowFormat).cfg.wrtFmt = .low2 ∧ (Instr.wrt (.imm 0x0B) (.imm 7)).wf (under lowFormat).cfg = true) ∧
    (State.reset.cfg.wrtFmt = .fault ∧ 3 < (State.reset.value (.imm 4)).toNat) :=
  ⟨⟨by decide, by decide, witness_Advances.1⟩, by decide, by decide⟩
theorem witness_CallResult :
    let s := ((under (depth 2)).setStack [1]).setPc 0xFF
    ((Instr.call (.reg .r7)).wf s.cfg = true ∧ HasRoom s) ∧
    ((Instr.call (.imm 0)).wf (under (depth 2)).cfg = true ∧ ¬HasRoom ((under (depth 2)).setStack [1, 2])) :=
  ⟨⟨by decide, fun _ h => by cases h; decide⟩, by decide, witness_HasRoom.2⟩
/-- The sum is -1 in slot 1 with `r0 = 0xFD`, and 256 in slot 254 with `r0 = 1`; 0 and 255 are the last that do not fault. -/
theorem witness_JreResult :
    State.reset.cfg.pcWrap = .wrap ∧ (under wrapFault).cfg.pcWrap = .fault ∧
    jreSum (State.reset.setPc 0x01).pcValue 0xFD < 0 ∧ 255 < jreSum (State.reset.setPc 0xFE).pcValue 0x01 ∧
    jreSum (State.reset.setPc 0x01).pcValue 0xFE = 0 ∧ jreSum (State.reset.setPc 0xFE).pcValue 0x00 = 255 := by decide
theorem witness_HcfHalts : Advances (State.reset.setPc 0xFF) ∧ ¬Advances ((under wrapFault).setPc 0xFF) :=
  ⟨witness_Advances.2.2.2, witness_Advances.2.2.1⟩
theorem witness_CallThenReturn :
    ∃ t, exec (.call (.imm 0x05)) (State.reset.setPc 0xFF) = .next t ∧ (State.reset.setStack [0x00]).stack = t.stack := ⟨_, rfl, rfl⟩
theorem witness_ImmediateActsAsRegister :
    flag1 0x40 = true ∧ flag2 0x20 = true ∧ Reg.r7.allowed State.reset.cfg = true ∧ State.reset.readReg .r7 = 0x01 := by decide

/-- For the five statements about what an instruction leaves alone: instructions that complete, without `r4`, `r5` or `r7` as a
destination, and with `r5`. -/
theorem witness_frames :
    ∃ t u v, exec (.add (.reg .r5) (.reg .r4) .r0) State.reset = .next t ∧
      exec (.pop .r5) (State.reset.setStack [0x2A]) = .next u ∧ exec (.wrt (.imm 0x41) (.imm 0)) State.reset = .next v ∧
      .r4 ∉ destinations (.add (.reg .r5) (.reg .r4) .r0) ∧ .r5 ∉ destinations (.add (.reg .r5) (.reg .r4) .r0) ∧
      .r0 ∉ destinations (.pop .r5) ∧ (0x01 : Nat) ≠ (State.reset.setStack [0x2A]).r4.toNat :=
  ⟨_, _, _, rfl, rfl, rfl, by decide, by decide, by decide, by decide⟩
theorem witness_AutomaticAdvance :
    (∃ t, exec (.jeq (.imm 0) (.imm 1) (.reg .r0)) (State.reset.setPc 0xFF) = .next t) ∧
    ¬writesPc (State.reset.setPc 0xFF) (.jeq (.imm 0) (.imm 1) (.reg .r0)) :=
  ⟨⟨_, rfl⟩, by simp [writesPc, destinations, condition, State.value]⟩
theorem witness_FaultsAreOnlyThese : (Instr.wrt (.imm 0) (.imm 4)).wf State.reset.cfg = true := by decide
theorem witness_ProgramIsReadOnly : ∃ t, step (at_ 0 0x50010005) = .next t := ⟨_, rfl⟩
theorem witness_PcReadMattersOnlyToReaders : .r7 ∉ sources (.mov (.imm 1) .r7) ∧ Instr.mov (.imm 1) .r7 ≠ .jre := by decide
theorem witness_TerminalIsUnobservable : (∃ t, step (at_ 0 0x74410000) = .next t) ∧ step State.reset = .fault (.fetchOutsideProgram 0) :=
  ⟨⟨_, rfl⟩, rfl⟩
theorem witness_InvariantAtReset : (List.replicate 256 (⟨0x17, 0, 0, 0⟩ : InstrBytes)).length ≤ 256 :=
  Nat.le_of_eq List.length_replicate
theorem witness_StepKeepsInvariant :
    let s := (((at_ 0 0x53010000).setRam [(0x00, 0x01), (0xFF, 0xFF)]).setStack [0x05])
    s.Inv ∧ ∃ t, step s = .next t :=
  ⟨⟨by decide, by decide, fun _ h => by cases h; decide⟩, _, rfl⟩
/-- `MOV 0x00, r7` in slot 0 comes back to itself. -/
theorem test_mov_to_r7_loops : step (at_ 0 0x50000007) = .next (at_ 0 0x50000007) := rfl
theorem loop_never_ends (k : Nat) : runFrom k (at_ 0 0x50000007) = .next (at_ 0 0x50000007) := by
  induction k with
  | zero => rfl
  | succ k ih => rw [runFrom, test_mov_to_r7_loops]; exact ih
/-- Each of the three ends is met. -/
theorem witness_RunEndsInExactlyOneWay :
    EndsHalted (at_ 0 0x17000000) ∧ EndsFaulted State.reset (.fetchOutsideProgram 0x00) ∧ NeverEnds (at_ 0 0x50000007) :=
  ⟨⟨1, _, rfl, rfl⟩, ⟨1, rfl⟩, fun k => ⟨_, loop_never_ends k, rfl⟩⟩

end Sys2Proof.Tests
end

/-! ## The frame of an instruction: what a completed instruction leaves alone -/

namespace Sys2Proof.Machine
open Sys2Proof.Claims

/-- `t` agrees with `s` on `r0` to `r4`, on RAM, on the program store and on the parameters, but for the registers in `ds`;
`r5` in `ds` is the byte of RAM at the address `a4` (R13, R17). The program counter, the stack, the terminal and `HALTED` are
left open. -/
structure State.SameBut (ds : List Reg) (a4 : Byte) (s t : State) : Prop where
  r0 : .r0 ∉ ds → t.r0 = s.r0
  r1 : .r1 ∉ ds → t.r1 = s.r1
  r2 : .r2 ∉ ds → t.r2 = s.r2
  r3 : .r3 ∉ ds → t.r3 = s.r3
  r4 : .r4 ∉ ds → t.r4 = s.r4
  ram : ∀ a, (.r5 ∉ ds ∨ a ≠ a4.toNat) → t.ram.read a = s.ram.read a
  prog : t.prog = s.prog
  cfg : t.cfg = s.cfg

namespace State.SameBut

variable {ds es : List Reg} {a4 : Byte} {s t u : State}

theorem refl (ds : List Reg) (a4 : Byte) (s : State) : SameBut ds a4 s s where
  r0 _ := rfl
  r1 _ := rfl
  r2 _ := rfl
  r3 _ := rfl
  r4 _ := rfl
  ram _ _ := rfl
  prog := rfl
  cfg := rfl

theorem trans (h : SameBut ds a4 s t) (k : SameBut es a4 t u) : SameBut (ds ++ es) a4 s u := by
  have hds {r : Reg} (hr : r ∉ ds ++ es) : r ∉ ds := fun hm => hr (List.mem_append_left _ hm)
  have hes {r : Reg} (hr : r ∉ ds ++ es) : r ∉ es := fun hm => hr (List.mem_append_right _ hm)
  exact {
    r0 := fun hr => (k.r0 (hes hr)).trans (h.r0 (hds hr))
    r1 := fun hr => (k.r1 (hes hr)).trans (h.r1 (hds hr))
    r2 := fun hr => (k.r2 (hes hr)).trans (h.r2 (hds hr))
    r3 := fun hr => (k.r3 (hes hr)).trans (h.r3 (hds hr))
    r4 := fun hr => (k.r4 (hes hr)).trans (h.r4 (hds hr))
    ram := fun a ha => (k.ram a (ha.imp_left hes)).trans (h.ram a (ha.imp_left hds))
    prog := k.prog.trans h.prog
    cfg := k.cfg.trans h.cfg }

/-! The fields a frame leaves open may change on its right. -/

theorem setPc (h : SameBut ds a4 s t) (v : Byte) : SameBut ds a4 s (t.setPc v) := { h with }
theorem setStack (h : SameBut ds a4 s t) (l : List Byte) : SameBut ds a4 s (t.setStack l) := { h with }
theorem setTerm (h : SameBut ds a4 s t) (l : List TermEvent) : SameBut ds a4 s (t.setTerm l) := { h with }
theorem setHalted (h : SameBut ds a4 s t) (b : Bool) : SameBut ds a4 s (t.setHalted b) := { h with }

/-- The automatic advance keeps every frame (R21). -/
theorem advance (h : SameBut ds a4 s t) (hu : t.advance = .next u) : SameBut ds a4 s u := by
  obtain ⟨-, rfl⟩ := (State.advance_next_iff t u).mp hu
  exact h.setPc _

/-- A register write is framed by that register (R17); one of `r5` by the address it is given. -/
theorem writeReg (s : State) (a4 : Byte) (r : Reg) (v : Byte) : SameBut [r] a4 s (s.writeReg a4 r v) := by
  obtain ⟨h0, h1, h2, h3, h4, -, hram⟩ := s.writeReg_fields a4 r v
  have hne {q : Reg} (hq : q ∉ [r]) : r ≠ q := fun e => hq (List.mem_singleton.mpr e.symm)
  exact {
    r0 := fun hr => h0.trans (if_neg (hne hr))
    r1 := fun hr => h1.trans (if_neg (hne hr))
    r2 := fun hr => h2.trans (if_neg (hne hr))
    r3 := fun hr => h3.trans (if_neg (hne hr))
    r4 := fun hr => h4.trans (if_neg (hne hr))
    ram := fun a ha => by
      rw [hram]
      rcases ha with hr | ha
      · rw [if_neg (hne hr)]
      · split
        · rw [Memory.read_write, if_neg ha]
        · rfl
    prog := s.writeReg_prog a4 r v
    cfg := s.writeReg_cfg a4 r v }

/-- Writing back a result is framed by DEST (R17, R23). -/
theorem writeBack {d : Reg} {v : Byte} (h : s.writeBack d v = .next t) : SameBut [d] s.r4 s t := by
  obtain rfl := State.writeBack_next s d v t h
  split
  · exact (refl [d] s.r4 s).setPc v
  · exact (writeReg s s.r4 d v).setPc _

/-- A two-operand `ALU` instruction is framed by DEST (R80). -/
theorem alu {f : Byte → Byte → Byte} {a b : Operand} {d : Reg} (h : s.alu f a b d = .next t) : SameBut [d] s.r4 s t :=
  writeBack (State.guard_next _ _ _ _ h)

/-- A jump, taken or not, writes no register but `pc` (R100). -/
theorem jumpIf {c : Bool} {x : Byte} (h : s.jumpIf c x = .next t) : SameBut [] a4 s t := by
  obtain rfl := State.jumpIf_next s c x t h
  exact (refl [] a4 s).setPc _

theorem compareJump {c : Byte → Byte → Bool} {a b : Operand} {x : Target} (h : s.compareJump c a b x = .next t) :
    SameBut [] a4 s t :=
  jumpIf (State.guard_next _ _ _ _ h)

/-! ## The meanings that do more than write back one result or jump -/

/-- Both writes of `SWAP` use the address `R[4]` held before the instruction (R33, R121). -/
theorem execSwap {a d : Reg} (h : Machine.execSwap a d s = .next t) : SameBut [a, d] s.r4 s t := by
  have written := (writeReg s s.r4 a (s.readReg d)).trans (writeReg _ s.r4 d (s.readReg a))
  have ended := State.guard_next _ _ _ _ h
  split at ended
  · cases ended
    exact written
  · exact written.advance ended

theorem execPush {a : Operand} (h : Machine.execPush a s = .next t) : SameBut [] s.r4 s t := by
  obtain ⟨-, ended⟩ := State.push_next _ _ _ _ (State.guard_next _ _ _ _ h)
  exact ((refl [] s.r4 s).setStack _).advance ended

/-- `POP` takes its byte off the stack and writes it back (R123). -/
theorem execPop {d : Reg} (h : Machine.execPop d s = .next t) : SameBut [d] s.r4 s t := by
  obtain ⟨v, below, -, ended⟩ := State.pop_next _ _ _ (State.guard_next _ _ _ _ h)
  exact ((refl [] s.r4 s).setStack below).trans (writeBack ended)

theorem execWrt {a b : Operand} (h : Machine.execWrt a b s = .next t) : SameBut [] s.r4 s t := by
  have ended := State.guard_next _ _ _ _ h
  split at ended
  · cases ended
  · exact ((refl [] s.r4 s).setTerm _).advance ended

theorem execCall {a : Operand} (h : Machine.execCall a s = .next t) : SameBut [] s.r4 s t := by
  obtain ⟨-, ended⟩ := State.push_next _ _ _ _ (State.guard_next _ _ _ _ h)
  cases ended
  exact ((refl [] s.r4 s).setStack _).setPc _

theorem execJre (h : Machine.execJre s = .next t) : SameBut [] s.r4 s t := by
  simp only [Machine.execJre] at h
  split at h
  · cases h
  · cases h
    exact (refl [] s.r4 s).setPc _

end State.SameBut

/-- Every instruction that completes is framed by its destinations (R17, R19, R64), a destination of `r5` at the address
`R[4]` held before it (R33). -/
theorem exec_sameBut_destinations {i : Instr} {s t : State} (h : exec i s = .next t) :
    State.SameBut (destinations i) s.r4 s t := by
  cases i with
  | and | ror | add | xor | or | rol | sub => exact .alu h
  | not | mov => exact .writeBack (State.guard_next _ _ _ _ h)
  | jmp => exact .jumpIf (State.guard_next _ _ _ _ h)
  | jne | jge | jgt | jeq | jlt | jle => exact .compareJump h
  | nop => exact (State.SameBut.refl [] s.r4 s).advance h
  | swap => exact .execSwap h
  | push => exact .execPush h
  | pop => exact .execPop h
  | wrt => exact .execWrt h
  | call => exact .execCall h
  | jre => exact .execJre h
  | hcf => exact ((State.SameBut.refl [] s.r4 s).setHalted true).advance h

/-- Settles O35: the frame of the instruction's destinations, read at `r4`. -/
theorem addressRegisterNeverMovesByItself : Obligations.AddressRegisterNeverMovesByItself := by
  unfold Obligations.AddressRegisterNeverMovesByItself
  intro s t i h hd
  exact (exec_sameBut_destinations h).r4 hd

end Sys2Proof.Machine


/-! ## Operands that act alike: an immediate in the place of a register that holds the same value -/

namespace Sys2Proof.Machine
open Sys2Proof.Claims

/-- Checking two lists of used registers is checking the one and then the other (R152 item 3). -/
theorem State.guard_append (s : State) (xs ys : List (RegField × Reg)) (k : Result) :
    s.guard (xs ++ ys) k = s.guard xs (s.guard ys k) := by
  simp only [State.guard, List.find?_append]
  cases xs.find? fun u => !u.2.allowed s.cfg <;> rfl

/-- The check of the register an operand may name passes when the operand is well formed (R56, R57). -/
theorem State.guard_operandRegs (s : State) (f : RegField) {o : Operand} (ho : o.wf s.cfg = true) (k : Result) :
    s.guard (operandRegs f o) k = k := by
  cases o with
  | imm v => rfl
  | reg r => exact s.guard_of_allowed _ k fun u hu => List.mem_singleton.mp hu ▸ ho

/-- An operand whose flag is set is the operand byte itself, whatever the parameters (R56, R61). -/
theorem decodeOperand_immediate (c : Config) (f : RegField) (b : Byte) : decodeOperand c f true b = .ok (.imm b) := rfl

/-- Two operands an instruction cannot tell apart in the state `s`: both may be named, and they have the same value. -/
structure State.ActAlike (s : State) (a b : Operand) : Prop where
  wfLeft : a.wf s.cfg = true
  wfRight : b.wf s.cfg = true
  value : s.value a = s.value b

namespace State.ActAlike

variable {s : State} {a b : Operand}

/-- An immediate acts like an allowed register that reads its value. -/
theorem imm_reg {r : Reg} {v : Byte} (hr : r.allowed s.cfg = true) (hv : s.readReg r = v) :
    ActAlike s (.imm v) (.reg r) := ⟨rfl, hr, hv.symm⟩

/-- No field check tells the two apart. -/
theorem guard (h : ActAlike s a b) (f : RegField) (k : Result) :
    s.guard (operandRegs f a) k = s.guard (operandRegs f b) k :=
  (s.guard_operandRegs f h.wfLeft k).trans (s.guard_operandRegs f h.wfRight k).symm

theorem alu_op1 (h : ActAlike s a b) (f : Byte → Byte → Byte) (o : Operand) (d : Reg) :
    s.alu f a o d = s.alu f b o d := by
  simp only [State.alu, State.guard_append, h.guard, h.value]

theorem alu_op2 (h : ActAlike s a b) (f : Byte → Byte → Byte) (o : Operand) (d : Reg) :
    s.alu f o a d = s.alu f o b d := by
  simp only [State.alu, State.guard_append, h.guard, h.value]

theorem compareJump_op1 (h : ActAlike s a b) (c : Byte → Byte → Bool) (o : Operand) (x : Target) :
    s.compareJump c a o x = s.compareJump c b o x := by
  simp only [State.compareJump, State.guard_append, h.guard, h.value]

theorem compareJump_op2 (h : ActAlike s a b) (c : Byte → Byte → Bool) (o : Operand) (x : Target) :
    s.compareJump c o a x = s.compareJump c o b x := by
  simp only [State.compareJump, State.guard_append, h.guard, h.value]

theorem execNot (h : ActAlike s a b) (d : Reg) : Machine.execNot a d s = Machine.execNot b d s := by
  simp only [Machine.execNot, State.guard_append, h.guard, h.value]

/-- Operand 1 of `JMP` is its target under `JUMP_TARGET = op1_value` (R101). -/
theorem execJmp (h : ActAlike s a b) : Machine.execJmp (.op1 a) s = Machine.execJmp (.op1 b) s := by
  simp only [Machine.execJmp, targetRegs, State.target, h.guard, h.value]

theorem execMov (h : ActAlike s a b) (d : Reg) : Machine.execMov a d s = Machine.execMov b d s := by
  simp only [Machine.execMov, State.guard_append, h.guard, h.value]

theorem execPush (h : ActAlike s a b) : Machine.execPush a s = Machine.execPush b s := by
  simp only [Machine.execPush, h.guard, h.value]

theorem execWrt_op1 (h : ActAlike s a b) (o : Operand) : Machine.execWrt a o s = Machine.execWrt b o s := by
  simp only [Machine.execWrt, State.guard_append, h.guard, h.value]

theorem execWrt_op2 (h : ActAlike s a b) (o : Operand) : Machine.execWrt o a s = Machine.execWrt o b s := by
  simp only [Machine.execWrt, State.guard_append, h.guard, h.value]

theorem execCall (h : ActAlike s a b) : Machine.execCall a s = Machine.execCall b s := by
  simp only [Machine.execCall, h.guard, h.value]

/-- Operands that act alike are exchangeable as operand 1 of every instruction that has one. -/
theorem exec_withOp1 (h : ActAlike s a b) (i : Instr) : exec (withOp1 a i) s = exec (withOp1 b i) s := by
  cases i with
  | and | ror | add | xor | or | rol | sub => exact h.alu_op1 _ _ _
  | not => exact h.execNot _
  | jmp x =>
    cases x with
    | op1 => exact h.execJmp
    | reg | literal => rfl
  | jne | jge | jgt | jeq | jlt | jle => exact h.compareJump_op1 _ _ _
  | mov => exact h.execMov _
  | push => exact h.execPush
  | wrt => exact h.execWrt_op1 _
  | call => exact h.execCall
  | nop | swap | pop | jre | hcf => rfl

/-- Operands that act alike are exchangeable as operand 2 of every instruction that has one. -/
theorem exec_withOp2 (h : ActAlike s a b) (i : Instr) : exec (withOp2 a i) s = exec (withOp2 b i) s := by
  cases i with
  | and | ror | add | xor | or | rol | sub => exact h.alu_op2 _ _ _
  | jne | jge | jgt | jeq | jlt | jle => exact h.compareJump_op2 _ _ _
  | wrt => exact h.execWrt_op2 _
  | not | jmp | nop | mov | swap | push | pop | call | jre | hcf => rfl

end State.ActAlike

/-- Settles O34: the flag selects the byte itself, and an immediate acts like an allowed register that reads its value. -/
theorem immediateActsAsRegister : Obligations.ImmediateActsAsRegister := by
  unfold Obligations.ImmediateActsAsRegister
  refine ⟨fun c w => ⟨fun h1 => ?_, fun h2 => ?_⟩, fun _ _ => rfl, fun s i r v hr hv => ?_⟩
  · rw [decodeOp1, h1, decodeOperand_immediate]
  · rw [decodeOp2, h2, decodeOperand_immediate]
  · have alike : s.ActAlike (.imm v) (.reg r) := .imm_reg hr hv
    exact ⟨alike.exec_withOp1 i, alike.exec_withOp2 i⟩

end Sys2Proof.Machine


/-! ## The encoding: what the decoder reads back from a canonical word -/

namespace Sys2Proof.Machine
open Sys2Proof.Claims

/-- A register's number names it under either `REGIDX_POLICY` (R57, R68). -/
theorem regOfByte_number (c : Config) (r : Reg) : regOfByte c r.number = some r := by
  unfold regOfByte
  cases c.regIdx <;> cases r <;> rfl

theorem decodeReg_number {c : Config} (f : RegField) {r : Reg} (hr : r.allowed c = true) :
    decodeReg c f r.number = .ok r := by
  simp [decodeReg, regOfByte_number, hr]

/-- A well-formed operand is read back from its flag and its byte (R53, R56). -/
theorem decodeOperand_byte {c : Config} (f : RegField) {o : Operand} (ho : o.wf c = true) :
    decodeOperand c f o.flag o.byte = .ok o := by
  cases o with
  | imm v => rfl
  | reg r => exact congrArg (Except.map Operand.reg) (decodeReg_number f ho)

/-- The fields of an opcode byte of R65: bit 7 clear, the two flags, and the base split into class and row (R51). -/
theorem opcodeByte_fields {base : Nat} (hbase : base < 32) (i1 i2 : Bool) :
    rsvBit (opcodeByte base i1 i2) = false ∧ flag1 (opcodeByte base i1 i2) = i1 ∧ flag2 (opcodeByte base i1 i2) = i2 ∧
    (classOf (opcodeByte base i1 i2)).toNat = base / 8 ∧ (subOf (opcodeByte base i1 i2)).toNat = base % 8 := by
  revert base
  cases i1 <;> cases i2 <;> decide

/-- The fields of a two-operand word with a register DEST are read back in the order `B1`, `B2`, `B3` (R64). -/
theorem decodeOpOpReg_encoded {c : Config} {base : Nat} (hbase : base < 32) {a b : Operand} {d : Reg}
    (ha : a.wf c = true) (hb : b.wf c = true) (hd : d.allowed c = true) (mk : Operand → Operand → Reg → Instr) :
    decodeOpOpReg c ⟨opcodeByte base a.flag b.flag, a.byte, b.byte, d.number⟩ mk = .ok (mk a b d) := by
  obtain ⟨-, h1, h2, -, -⟩ := opcodeByte_fields hbase a.flag b.flag
  simp only [decodeOpOpReg, decodeOp1, decodeOp2, decodeDest, h1, h2, decodeOperand_byte _ ha, decodeOperand_byte _ hb,
    decodeReg_number _ hd]
  rfl

/-- A word whose base is below 8 is of class `00`, whatever its flags and operand bytes (R54, R65). -/
theorem decode_opcodeByte_alu (c : Config) {base : Nat} (hbase : base < 8) (i1 i2 : Bool) (b1 b2 b3 : Byte) :
    decode c ⟨opcodeByte base i1 i2, b1, b2, b3⟩ = decodeAlu c ⟨opcodeByte base i1 i2, b1, b2, b3⟩ := by
  obtain ⟨hrsv, -, -, hclass, -⟩ := opcodeByte_fields (by omega : base < 32) i1 i2
  simp [decode, hrsv, hclass, Nat.div_eq_of_lt hbase]

/-! ## The two-operand `ALU` instructions: result, frame and faults -/

/-- A write-back that completes writes DEST and moves `pc`, and nothing else (R17, R21, R23). -/
theorem State.writeBack_wroteReg {s t : State} {d : Reg} {v : Byte} (h : s.writeBack d v = .next t) :
    WroteReg s t d v := by
  have ended : t = (s.writeReg s.r4 d v).setPc (if d = .r7 then v else s.nextPc) := by
    rw [s.writeBack_next d v t h]
    split
    · subst d
      rfl
    · rfl
  subst ended
  obtain ⟨h0, h1, h2, h3, h4, -, hram⟩ := s.writeReg_fields s.r4 d v
  exact {
    r0 := h0
    r1 := h1
    r2 := h2
    r3 := h3
    r4 := h4
    pc := rfl
    ram := fun a => by
      rw [State.setPc_ram, hram]
      by_cases hd : d = .r5 <;> simp [hd]
    stack := s.writeReg_stack s.r4 d v
    term := s.writeReg_term s.r4 d v
    halted := s.writeReg_halted s.r4 d v
    prog := s.writeReg_prog s.r4 d v
    cfg := s.writeReg_cfg s.r4 d v }

/-- With allowed registers and a possible advance, a two-operand `ALU` instruction writes its result to DEST (R80). -/
theorem State.alu_completes (f : Byte → Byte → Byte) {s : State} {a b : Operand} {d : Reg} (ha : a.wf s.cfg = true)
    (hb : b.wf s.cfg = true) (hd : d.allowed s.cfg = true) (hpc : d = .r7 ∨ Advances s) :
    ∃ t, s.alu f a b d = .next t ∧ WroteReg s t d (f (s.value a) (s.value b)) := by
  have written := s.writeBack_eq d (f (s.value a) (s.value b)) hpc
  have unguarded : s.alu f a b d = s.writeBack d (f (s.value a) (s.value b)) := by
    rw [State.alu, State.guard_append, State.guard_append, s.guard_operandRegs .op1 ha, s.guard_operandRegs .op2 hb]
    exact s.guard_operandRegs .dest (o := .reg d) hd _
  exact ⟨_, unguarded.trans written, State.writeBack_wroteReg written⟩

/-- A two-operand `ALU` instruction faults for `r6` or in its automatic advance only (R14, R21). -/
theorem State.alu_fault {f : Byte → Byte → Byte} {s : State} {a b : Operand} {d : Reg} {e : Fault}
    (h : s.alu f a b d = .fault e) : (∃ g, e = .reservedRegister g) ∨ (e = .pcWrap ∧ d ≠ .r7 ∧ ¬Advances s) := by
  rcases State.guard_fault _ _ _ _ h with ⟨u, -, -, he⟩ | hback
  · exact .inl ⟨u.1, he⟩
  · obtain ⟨he, hwrap, hpc, hd⟩ := State.writeBack_fault _ _ _ _ hback
    exact .inr ⟨he, hd, not_not_intro ⟨hwrap, hpc⟩⟩

/-- An instruction that stands in row `base` of class `00`, uses all three fields and means `x[DEST] <- f(val1, val2)` keeps
the rule of the class, with any relation `f` meets as its result (R64, R65, R80). -/
theorem aluRule_of_alu {mk : Operand → Operand → Reg → Instr} {base : Nat} {result : Byte → Byte → Byte → Prop}
    (f : Byte → Byte → Byte) (hbase : base < 8)
    (hrow : ∀ c w, (subOf w.b0).toNat = base → decodeAlu c w = decodeOpOpReg c w mk)
    (hwf : ∀ c a b d, (mk a b d).wf c = (a.wf c && b.wf c && d.allowed c))
    (hexec : ∀ a b d s, exec (mk a b d) s = s.alu f a b d) (hresult : ∀ v w, result v w (f v w)) :
    AluRule mk base result := by
  intro s a b d
  simp only [hwf, hexec, Bool.and_eq_true]
  refine ⟨fun ⟨⟨ha, hb⟩, hd⟩ => ?_, fun ⟨⟨ha, hb⟩, hd⟩ hpc => ?_, fun _ => State.alu_fault⟩
  · have hbase' : base < 32 := by omega
    obtain ⟨-, -, -, -, hsub⟩ := opcodeByte_fields hbase' a.flag b.flag
    rw [decode_opcodeByte_alu _ hbase, hrow _ _ (hsub.trans (Nat.mod_eq_of_lt hbase)),
      decodeOpOpReg_encoded hbase' ha hb hd]
  · obtain ⟨t, ended, written⟩ := State.alu_completes f ha hb hd hpc
    exact ⟨t, _, ended, hresult _ _, written⟩

/-- Settles O15: the three keep the rule of the class, and Lean's `&&&`, `^^^` and `|||` work bit by bit. -/
theorem bitwiseResults : Obligations.BitwiseResults := by
  unfold Obligations.BitwiseResults
  exact ⟨
    aluRule_of_alu (fun v w => v &&& w) (by decide) (fun _ _ h => by simp only [decodeAlu, h]) (fun _ _ _ _ => rfl)
      (fun _ _ _ _ => rfl) fun _ _ _ _ => BitVec.getLsbD_and,
    aluRule_of_alu (fun v w => v ^^^ w) (by decide) (fun _ _ h => by simp only [decodeAlu, h]) (fun _ _ _ _ => rfl)
      (fun _ _ _ _ => rfl) fun _ _ _ _ => BitVec.getLsbD_xor,
    aluRule_of_alu (fun v w => v ||| w) (by decide) (fun _ _ h => by simp only [decodeAlu, h]) (fun _ _ _ _ => rfl)
      (fun _ _ _ _ => rfl) fun _ _ _ _ => BitVec.getLsbD_or⟩

end Sys2Proof.Machine


/-! ## The comparing jumps: encoding, both outcomes and faults -/

namespace Sys2Proof.Machine
open Sys2Proof.Claims

/-- A word whose base is `8 + sub` is of class `01` and row `sub`, whatever its flags and operand bytes (R54, R55, R65). -/
theorem decode_opcodeByte_cond (c : Config) {sub : Nat} (hsub : sub < 8) (i1 i2 : Bool) (b1 b2 b3 : Byte) :
    decode c ⟨opcodeByte (8 + sub) i1 i2, b1, b2, b3⟩ = decodeCond c ⟨opcodeByte (8 + sub) i1 i2, b1, b2, b3⟩ ∧
    (subOf (opcodeByte (8 + sub) i1 i2)).toNat = sub := by
  obtain ⟨hrsv, -, -, hclass, hrow⟩ := opcodeByte_fields (by omega : 8 + sub < 32) i1 i2
  have hclass : (classOf (opcodeByte (8 + sub) i1 i2)).toNat = 1 := by omega
  exact ⟨by simp [decode, hrsv, hclass], by omega⟩

/-- A well-formed target of a comparing jump is read back from its DEST byte (R101). -/
theorem decodeTarget_destByte {c : Config} {x : Target} (hx : x.wf c = true) (b0 b1 b2 : Byte) :
    decodeTarget c ⟨b0, b1, b2, x.destByte⟩ = .ok x := by
  cases x with
  | reg r =>
    obtain ⟨hr, hform⟩ : r.allowed c = true ∧ c.jumpTarget ≠ .destLiteral := by simpa [Target.wf] using hx
    have hdest : decodeDest c ⟨b0, b1, b2, r.number⟩ = .ok r := decodeReg_number .dest hr
    cases hj : c.jumpTarget with
    | destLiteral => exact absurd hj hform
    | destRegister | op1Value => simp only [decodeTarget, hj, Target.destByte, hdest]; rfl
  | literal n =>
    have hform : c.jumpTarget = .destLiteral := by simpa [Target.wf] using hx
    simp only [decodeTarget, hform, Target.destByte]
  | op1 o => cases hx

/-- The fields of a comparing jump are read back in the order `B1`, `B2`, `B3` (R64). -/
theorem decodeOpOpTarget_encoded {c : Config} {base : Nat} (hbase : base < 32) {a b : Operand} {x : Target}
    (ha : a.wf c = true) (hb : b.wf c = true) (hx : x.wf c = true) (mk : Operand → Operand → Target → Instr) :
    decodeOpOpTarget c ⟨opcodeByte base a.flag b.flag, a.byte, b.byte, x.destByte⟩ mk = .ok (mk a b x) := by
  obtain ⟨-, h1, h2, -, -⟩ := opcodeByte_fields hbase a.flag b.flag
  simp only [decodeOpOpTarget, decodeOp1, decodeOp2, h1, h2, decodeOperand_byte _ ha, decodeOperand_byte _ hb,
    decodeTarget_destByte hx]
  rfl

/-- The check of the register a comparing jump's target may name passes when the target is well formed (R57, R101). -/
theorem State.guard_targetRegs (s : State) {x : Target} (hx : x.wf s.cfg = true) (k : Result) :
    s.guard (targetRegs x) k = k := by
  cases x with
  | reg r => exact s.guard_operandRegs .dest (o := .reg r) (Bool.and_elim_left hx) k
  | literal n => rfl
  | op1 o => cases hx

/-- With well-formed fields, a comparing jump goes to its target if its condition holds, and else to the next slot where
the automatic advance is possible (R100, R21). -/
theorem State.compareJump_eq {s : State} {a b : Operand} {x : Target} (c : Byte → Byte → Bool) (ha : a.wf s.cfg = true)
    (hb : b.wf s.cfg = true) (hx : x.wf s.cfg = true) (hpc : c (s.value a) (s.value b) = true ∨ Advances s) :
    s.compareJump c a b x = .next (s.setPc (if c (s.value a) (s.value b) then s.target x else s.pc + 1)) := by
  rw [State.compareJump, State.guard_append, State.guard_append, s.guard_operandRegs .op1 ha, s.guard_operandRegs .op2 hb,
    s.guard_targetRegs hx]
  exact s.jumpIf_eq _ _ hpc

/-- A comparing jump faults for `r6` or, not taken, in its automatic advance only (R14, R21). -/
theorem State.compareJump_fault {s : State} {c : Byte → Byte → Bool} {a b : Operand} {x : Target} {e : Fault}
    (h : s.compareJump c a b x = .fault e) :
    (∃ g, e = .reservedRegister g) ∨ (e = .pcWrap ∧ c (s.value a) (s.value b) = false ∧ ¬Advances s) := by
  rcases State.guard_fault _ _ _ _ h with ⟨u, -, -, he⟩ | hjump
  · exact .inl ⟨u.1, he⟩
  · obtain ⟨hc, he, hwrap, hpc⟩ := State.jumpIf_fault _ _ _ _ hjump
    exact .inr ⟨he, hc, not_not_intro ⟨hwrap, hpc⟩⟩

/-- `mk` is the comparing jump in row `sub` of class `01`: that row decodes to it, it uses all three fields, and it jumps on
the condition R110 gives the row. -/
structure ComparingJump (mk : Operand → Operand → Target → Instr) (sub : Nat) : Prop where
  row : ∀ c w, (subOf w.b0).toNat = sub → decodeCond c w = decodeOpOpTarget c w mk
  wf : ∀ c a b x, (mk a b x).wf c = (a.wf c && b.wf c && x.wf c)
  exec : ∀ s a b x, exec (mk a b x) s = s.compareJump (fun v u => negationRule sub v.toNat u.toNat) a b x
  condition : ∀ s a b x,
    condition s (mk a b x) = some (negationRule sub (s.value a).toNat (s.value b).toNat, x)

/-! The six rows of R110 that compare. -/

theorem negationRule_one (v u : Nat) : negationRule 1 v u = decide (v ≠ u) := Bool.xor_false _
theorem negationRule_two (v u : Nat) : negationRule 2 v u = decide (u ≤ v) := Bool.xor_false _
theorem negationRule_three (v u : Nat) : negationRule 3 v u = decide (u < v) := Bool.xor_false _

/-- The subtypes 4 to 7 negate the conditions of 0 to 3 (R110). -/
theorem negationRule_add_four {sub : Nat} (hsub : sub < 4) (v u : Nat) :
    negationRule (sub + 4) v u = !negationRule sub v u := by
  simp [negationRule, Nat.not_le.mpr hsub]

theorem negationRule_five (v u : Nat) : negationRule 5 v u = decide (v = u) := by
  rw [negationRule_add_four (sub := 1) (by decide), negationRule_one, ← decide_not]
  simp only [ne_eq, not_not]
theorem negationRule_six (v u : Nat) : negationRule 6 v u = decide (v < u) := by
  rw [negationRule_add_four (sub := 2) (by decide), negationRule_two, ← decide_not]
  simp only [Nat.not_le]
theorem negationRule_seven (v u : Nat) : negationRule 7 v u = decide (v ≤ u) := by
  rw [negationRule_add_four (sub := 3) (by decide), negationRule_three, ← decide_not]
  simp only [Nat.not_lt]

theorem comparingJump_jne : ComparingJump .jne 1 where
  row c w h := by simp only [decodeCond, h]
  wf _ _ _ _ := rfl
  exec s a b x := by
    have test : (fun v u : Byte => v != u) = fun v u => negationRule 1 v.toNat u.toNat := by
      funext v u
      simp [negationRule_one, ← BitVec.toNat_eq, bne, beq_eq_decide]
    exact congrArg (s.compareJump · a b x) test
  condition _ _ _ _ := by rw [negationRule_one]; rfl

theorem comparingJump_jge : ComparingJump .jge 2 where
  row c w h := by simp only [decodeCond, h]
  wf _ _ _ _ := rfl
  exec _ _ _ _ := by simp only [negationRule_two]; rfl
  condition _ _ _ _ := by rw [negationRule_two]; rfl

theorem comparingJump_jgt : ComparingJump .jgt 3 where
  row c w h := by simp only [decodeCond, h]
  wf _ _ _ _ := rfl
  exec _ _ _ _ := by simp only [negationRule_three]; rfl
  condition _ _ _ _ := by rw [negationRule_three]; rfl

theorem comparingJump_jeq : ComparingJump .jeq 5 where
  row c w h := by simp only [decodeCond, h]
  wf _ _ _ _ := rfl
  exec s a b x := by
    have test : (fun v u : Byte => v == u) = fun v u => negationRule 5 v.toNat u.toNat := by
      funext v u
      simp [negationRule_five, ← BitVec.toNat_eq, beq_eq_decide]
    exact congrArg (s.compareJump · a b x) test
  condition _ _ _ _ := by rw [negationRule_five]; rfl

theorem comparingJump_jlt : ComparingJump .jlt 6 where
  row c w h := by simp only [decodeCond, h]
  wf _ _ _ _ := rfl
  exec _ _ _ _ := by simp only [negationRule_six]; rfl
  condition _ _ _ _ := by rw [negationRule_six]; rfl

theorem comparingJump_jle : ComparingJump .jle 7 where
  row c w h := by simp only [decodeCond, h]
  wf _ _ _ _ := rfl
  exec _ _ _ _ := by simp only [negationRule_seven]; rfl
  condition _ _ _ _ := by rw [negationRule_seven]; rfl

/-- A comparing jump keeps the rule of the class under any wording of its row's condition (R64, R65, R100). -/
theorem ComparingJump.compareRule {mk : Operand → Operand → Target → Instr} {sub : Nat} {cond : Nat → Nat → Prop}
    (jump : ComparingJump mk sub) (hsub : sub < 8) (hcond : ∀ v u, negationRule sub v u = true ↔ cond v u) :
    CompareRule mk (8 + sub) cond := by
  intro s a b x
  simp only [jump.wf, jump.exec, Bool.and_eq_true, ← hcond, Bool.not_eq_true]
  refine ⟨fun ⟨⟨ha, hb⟩, hx⟩ => ?_, fun ⟨⟨ha, hb⟩, hx⟩ htaken => ?_, fun ⟨⟨ha, hb⟩, hx⟩ hnot hadv => ?_,
    fun _ => State.compareJump_fault⟩
  · obtain ⟨hclass, hrow⟩ := decode_opcodeByte_cond s.cfg hsub a.flag b.flag a.byte b.byte x.destByte
    rw [hclass, jump.row _ _ hrow, decodeOpOpTarget_encoded (by omega) ha hb hx]
  · rw [State.compareJump_eq _ ha hb hx (.inl htaken), if_pos htaken]
  · rw [State.compareJump_eq _ ha hb hx (.inr hadv), if_neg (Bool.eq_false_iff.mp hnot)]

/-- Settles O19: rows 1 and 5 of class `01`. -/
theorem equalityJumps : Obligations.EqualityJumps := by
  unfold Obligations.EqualityJumps
  exact ⟨comparingJump_jne.compareRule (by decide) fun v u => by simp [negationRule_one],
    comparingJump_jeq.compareRule (by decide) fun v u => by simp [negationRule_five]⟩

/-- Settles O20: rows 2, 3, 6 and 7 of class `01`. -/
theorem orderingJumps : Obligations.OrderingJumps := by
  unfold Obligations.OrderingJumps
  exact ⟨comparingJump_jge.compareRule (by decide) fun v u => by simp [negationRule_two],
    comparingJump_jgt.compareRule (by decide) fun v u => by simp [negationRule_three],
    comparingJump_jlt.compareRule (by decide) fun v u => by simp [negationRule_six],
    comparingJump_jle.compareRule (by decide) fun v u => by simp [negationRule_seven]⟩

/-! ## `NOP` -/

/-- The base of `NOP` with bit 7 added gives an opcode byte with that bit set, whatever its flags (R52). -/
theorem rsvBit_opcodeByte_nop (i1 i2 : Bool) : rsvBit (opcodeByte 0x8C i1 i2) = true := by
  cases i1 <;> cases i2 <;> rfl

/-- Settles O22: row 4 of class `01` looks at no field, and its meaning is the automatic advance. -/
theorem nopDoesNothing : Obligations.NopDoesNothing := by
  unfold Obligations.NopDoesNothing
  refine ⟨fun c i1 i2 b1 b2 b3 => ⟨?_, fun hbit7 => ?_⟩, fun s hadv => ?_, fun s f h => ?_⟩
  · obtain ⟨hclass, hrow⟩ := decode_opcodeByte_cond c (sub := 4) (by decide) i1 i2 b1 b2 b3
    exact hclass.trans (by simp only [decodeCond, hrow])
  · simp [decode, rsvBit_opcodeByte_nop, hbit7]
  · exact (s.advance_next_iff _).mpr ⟨hadv, rfl⟩
  · obtain ⟨hf, hwrap, hpc⟩ := s.advance_fault f h
    exact ⟨hf, not_not_intro ⟨hwrap, hpc⟩⟩

/-! ## Decoded `COND` words: the fields are well formed, and bit 2 of the subtype negates -/

/-- A decoded register may be named (R14, R57). -/
theorem decodeReg_allowed {c : Config} {f : RegField} {b : Byte} {r : Reg} (h : decodeReg c f b = .ok r) :
    r.allowed c = true := by
  unfold decodeReg at h
  split at h
  · cases h
  · split at h
    · cases h
      assumption
    · cases h

/-- A mapped decoding succeeds only by what was decoded. -/
theorem decoded_of_map_ok {α β : Type} {f : α → β} {d : Except DecodeError α} {y : β} (h : d.map f = .ok y) :
    ∃ x, d = .ok x ∧ y = f x := by
  cases d with
  | error e => cases h
  | ok x => exact ⟨x, rfl, (Except.ok.inj h).symm⟩

/-- A decoding in sequence succeeds only by what was decoded first. -/
theorem decoded_of_bind_ok {α β : Type} {d : Except DecodeError α} {f : α → Except DecodeError β} {y : β}
    (h : d >>= f = .ok y) : ∃ x, d = .ok x ∧ f x = .ok y := by
  cases d with
  | error e => cases h
  | ok x => exact ⟨x, rfl, h⟩

theorem decodeOperand_wf {c : Config} {f : RegField} {imm : Bool} {b : Byte} {o : Operand}
    (h : decodeOperand c f imm b = .ok o) : o.wf c = true := by
  cases imm with
  | true => cases h; rfl
  | false =>
    obtain ⟨r, hr, rfl⟩ := decoded_of_map_ok h
    exact decodeReg_allowed hr

theorem decodeTarget_wf {c : Config} {w : InstrBytes} {x : Target} (h : decodeTarget c w = .ok x) : x.wf c = true := by
  cases hj : c.jumpTarget with
  | destLiteral =>
    simp only [decodeTarget, hj] at h
    cases h
    simp [Target.wf, hj]
  | destRegister | op1Value =>
    simp only [decodeTarget, hj] at h
    obtain ⟨r, hr, rfl⟩ := decoded_of_map_ok h
    simp [Target.wf, decodeReg_allowed hr, hj]

theorem decodeJmpTarget_wfJmp {c : Config} {w : InstrBytes} {x : Target} (h : decodeJmpTarget c w = .ok x) :
    x.wfJmp c = true := by
  cases hj : c.jumpTarget with
  | destLiteral =>
    simp only [decodeJmpTarget, hj] at h
    cases h
    simp [Target.wfJmp, hj]
  | destRegister =>
    simp only [decodeJmpTarget, hj] at h
    obtain ⟨r, hr, rfl⟩ := decoded_of_map_ok h
    simp [Target.wfJmp, decodeReg_allowed hr, hj]
  | op1Value =>
    simp only [decodeJmpTarget, hj] at h
    obtain ⟨o, ho, rfl⟩ := decoded_of_map_ok h
    simp [Target.wfJmp, decodeOperand_wf ho, hj]

/-- A decoded comparing jump is made of its two decoded operands and its decoded target (R64). -/
theorem decodeOpOpTarget_ok {c : Config} {w : InstrBytes} {mk : Operand → Operand → Target → Instr} {i : Instr}
    (h : decodeOpOpTarget c w mk = .ok i) :
    ∃ a b x, decodeOp1 c w = .ok a ∧ decodeOp2 c w = .ok b ∧ decodeTarget c w = .ok x ∧ i = mk a b x := by
  obtain ⟨a, ha, h⟩ := decoded_of_bind_ok h
  obtain ⟨b, hb, h⟩ := decoded_of_bind_ok h
  obtain ⟨x, hx, h⟩ := decoded_of_bind_ok h
  exact ⟨a, b, x, ha, hb, hx, (Except.ok.inj h).symm⟩

/-- What decodes from a word of class `01` is what its row gives (R54, R65). -/
theorem decodeCond_of_decode {c : Config} {w : InstrBytes} {i : Instr} (h : decode c w = .ok i)
    (hclass : classOf w.b0 = 1) : decodeCond c w = .ok i := by
  unfold decode at h
  split at h
  · cases h
  · simpa [hclass] using h

/-- The eight rows of class `01`: `JMP`, `NOP` and the comparing jumps (R65, R110). -/
theorem decodeCond_cases (c : Config) (w : InstrBytes) :
    ((subOf w.b0).toNat = 0 ∧ decodeCond c w = (decodeJmpTarget c w).map .jmp) ∨
    ((subOf w.b0).toNat = 4 ∧ decodeCond c w = .ok .nop) ∨
    ∃ mk, ComparingJump mk (subOf w.b0).toNat ∧ decodeCond c w = decodeOpOpTarget c w mk := by
  have hlt : (subOf w.b0).toNat < 8 := (subOf w.b0).isLt
  interval_cases h : (subOf w.b0).toNat
  · exact .inl ⟨rfl, by simp only [decodeCond, h]⟩
  · exact .inr (.inr ⟨_, comparingJump_jne, comparingJump_jne.row c w h⟩)
  · exact .inr (.inr ⟨_, comparingJump_jge, comparingJump_jge.row c w h⟩)
  · exact .inr (.inr ⟨_, comparingJump_jgt, comparingJump_jgt.row c w h⟩)
  · exact .inr (.inl ⟨rfl, by simp only [decodeCond, h]⟩)
  · exact .inr (.inr ⟨_, comparingJump_jeq, comparingJump_jeq.row c w h⟩)
  · exact .inr (.inr ⟨_, comparingJump_jlt, comparingJump_jlt.row c w h⟩)
  · exact .inr (.inr ⟨_, comparingJump_jle, comparingJump_jle.row c w h⟩)

/-- The instruction number is `class ‖ sub` (R51). -/
theorem row_eq_class_sub (b0 : Byte) : row b0 = 8 * (classOf b0).toNat + (subOf b0).toNat := by
  simp only [row, classOf, subOf, BitVec.extractLsb'_toNat, Nat.shiftRight_eq_div_pow]
  omega

/-- With its register allowed, `JMP` goes to its target, whatever the slot (R102). -/
theorem execJmp_eq {s : State} {x : Target} (hx : x.wfJmp s.cfg = true) : execJmp x s = .next (s.setPc (s.target x)) := by
  have passes : s.guard (targetRegs x) (s.jumpIf true (s.target x)) = s.jumpIf true (s.target x) := by
    cases x with
    | reg r => exact s.guard_operandRegs .dest (o := .reg r) (Bool.and_elim_left hx) _
    | literal n => rfl
    | op1 o => exact s.guard_operandRegs .op1 (Bool.and_elim_left hx) _
  exact passes.trans (s.jumpIf_eq true _ (.inl rfl))

/-- In the state `s` the instruction `i` of the `COND` word `w` jumps exactly on the condition R110 gives the word's subtype, of
the values of the operands its row uses. -/
def JumpsByRule (s : State) (w : InstrBytes) (i : Instr) : Prop :=
  ∃ v u x : Byte,
    (usesOp1 (row w.b0) = true → ∃ o, decodeOp1 s.cfg w = .ok o ∧ v = s.value o) ∧
    (usesOp2 (row w.b0) = true → ∃ o, decodeOp2 s.cfg w = .ok o ∧ u = s.value o) ∧
    (i = .nop ∨ ∃ tgt, condition s i = some (negationRule (subOf w.b0).toNat v.toNat u.toNat, tgt) ∧ x = s.target tgt) ∧
    exec i s = .next (s.setPc (if negationRule (subOf w.b0).toNat v.toNat u.toNat then x else s.pc + 1))

/-- A comparing jump decoded from its row jumps on the values of its two decoded operands (R100, R110). -/
theorem ComparingJump.jumpsByRule {mk : Operand → Operand → Target → Instr} {s : State} {w : InstrBytes} {i : Instr}
    (jump : ComparingJump mk (subOf w.b0).toNat) (hdec : decodeOpOpTarget s.cfg w mk = .ok i) (hadv : Advances s) :
    JumpsByRule s w i := by
  obtain ⟨a, b, x, ha, hb, hx, rfl⟩ := decodeOpOpTarget_ok hdec
  refine ⟨s.value a, s.value b, s.target x, fun _ => ⟨a, ha, rfl⟩, fun _ => ⟨b, hb, rfl⟩,
    .inr ⟨x, jump.condition s a b x, rfl⟩, ?_⟩
  rw [jump.exec]
  exact State.compareJump_eq _ (decodeOperand_wf ha) (decodeOperand_wf hb) (decodeTarget_wf hx) (.inr hadv)

/-- Every decoded `COND` word jumps by the rule of its subtype, where the automatic advance is possible (R110). -/
theorem jumpsByRule_of_decode {s : State} {w : InstrBytes} {i : Instr} (h : decode s.cfg w = .ok i)
    (hclass : classOf w.b0 = 1) (hadv : Advances s) : JumpsByRule s w i := by
  have hdec := decodeCond_of_decode h hclass
  have hrow : row w.b0 = 8 + (subOf w.b0).toNat := by rw [row_eq_class_sub, hclass]; rfl
  rcases decodeCond_cases s.cfg w with ⟨hsub, hjmp⟩ | ⟨hsub, hnop⟩ | ⟨mk, jump, hmk⟩
  · obtain ⟨x, hx, rfl⟩ := decoded_of_map_ok (hjmp.symm.trans hdec)
    have hunused : usesOp1 (row w.b0) = false ∧ usesOp2 (row w.b0) = false := by rw [hrow, hsub]; decide
    simp only [JumpsByRule, hunused, hsub]
    exact ⟨0, 0, s.target x, nofun, nofun, .inr ⟨x, rfl, rfl⟩, execJmp_eq (decodeJmpTarget_wfJmp hx)⟩
  · obtain rfl := Except.ok.inj (hnop.symm.trans hdec)
    have hunused : usesOp1 (row w.b0) = false ∧ usesOp2 (row w.b0) = false := by rw [hrow, hsub]; decide
    simp only [JumpsByRule, hunused, hsub]
    exact ⟨0, 0, 0, nofun, nofun, .inl trivial, (s.advance_next_iff _).mpr ⟨hadv, rfl⟩⟩
  · exact jump.jumpsByRule (hmk.symm.trans hdec) hadv

/-- Settles O23: by the rows of class `01`, and bit 2 of the subtype flips the condition. -/
theorem subtypeBitTwoNegates : Obligations.SubtypeBitTwoNegates := by
  unfold Obligations.SubtypeBitTwoNegates
  exact ⟨fun _ _ _ h hclass hadv => jumpsByRule_of_decode h hclass hadv, fun _ v u hsub => negationRule_add_four hsub v u⟩

end Sys2Proof.Machine


/-! ## The decoder by rows: the check of the opcode byte, then the fields the row uses -/

namespace Sys2Proof.Machine
open Sys2Proof.Claims

/-- The fields a row of the opcode map uses (R64), with the instruction it makes of them. -/
inductive RowShape
  | opOpReg (mk : Operand → Operand → Reg → Instr)
  | opReg (mk : Operand → Reg → Instr)
  | opOpTarget (mk : Operand → Operand → Target → Instr)
  | jmp
  | swap
  | op (mk : Operand → Instr)
  | reg (mk : Reg → Instr)
  | wrt
  | bare (i : Instr)

/-- The shape of each row 0 to 23 (R65). -/
def shapeOfRow : Nat → RowShape
  | 0 => .opOpReg .and
  | 1 => .opOpReg .ror
  | 2 => .opOpReg .add
  | 3 => .opOpReg .xor
  | 4 => .opOpReg .or
  | 5 => .opOpReg .rol
  | 6 => .opOpReg .sub
  | 7 => .opReg .not
  | 8 => .jmp
  | 9 => .opOpTarget .jne
  | 10 => .opOpTarget .jge
  | 11 => .opOpTarget .jgt
  | 12 => .bare .nop
  | 13 => .opOpTarget .jeq
  | 14 => .opOpTarget .jlt
  | 15 => .opOpTarget .jle
  | 16 => .opReg .mov
  | 17 => .swap
  | 18 => .op .push
  | 19 => .reg .pop
  | 20 => .wrt
  | 21 => .op .call
  | 22 => .bare .jre
  | _ => .bare .hcf

/-- The two registers of `SWAP`, without the check of its fixed flag (R121). -/
def decodeSwapRegs (c : Config) (w : InstrBytes) : Except DecodeError Instr := do
  let a ← decodeReg c .op1 w.b1
  let d ← decodeDest c w
  return .swap a d

/-- The fields of a shape, decoded in the order `B1`, `B2`, `B3` (R152 item 3). -/
def RowShape.decode (c : Config) (w : InstrBytes) : RowShape → Except DecodeError Instr
  | .opOpReg mk => decodeOpOpReg c w mk
  | .opReg mk => decodeOpReg c w mk
  | .opOpTarget mk => decodeOpOpTarget c w mk
  | .jmp => (decodeJmpTarget c w).map .jmp
  | .swap => decodeSwapRegs c w
  | .op mk => (decodeOp1 c w).map mk
  | .reg mk => (decodeDest c w).map mk
  | .wrt => decodeWrt c w
  | .bare i => .ok i

/-- A flag that must be clear is set: `i2` of `MOV` under `MOV_I2_POLICY = fault`, `i1` of `SWAP` (R60). -/
def badFixedFlag (c : Config) (b0 : Byte) : Bool :=
  (row b0 == 16 && flag2 b0 && c.movI2 == .fault) || (row b0 == 17 && flag1 b0)

/-- Why an opcode byte selects no row, if it selects none (R152 item 2). -/
def opcodeFault (c : Config) (b0 : Byte) : Option IllegalReason :=
  if rsvBit b0 && c.bit7 == .fault then some .bit7
  else if 24 ≤ row b0 then some .class3
  else if badFixedFlag c b0 then some .fixedFlag
  else none

theorem opcodeFault_eq_none_iff (c : Config) (b0 : Byte) :
    opcodeFault c b0 = none ↔ (rsvBit b0 && c.bit7 == .fault) = false ∧ row b0 < 24 ∧ badFixedFlag c b0 = false := by
  unfold opcodeFault
  split_ifs <;> simp_all

/-- A row of class `00` (R54). -/
theorem decodeAlu_eq_shape (c : Config) (w : InstrBytes) : decodeAlu c w = (shapeOfRow (subOf w.b0).toNat).decode c w := by
  have hsub : (subOf w.b0).toNat < 8 := (subOf w.b0).isLt
  unfold decodeAlu
  generalize (subOf w.b0).toNat = n at hsub
  interval_cases n <;> rfl

/-- A row of class `01` (R54). -/
theorem decodeCond_eq_shape (c : Config) (w : InstrBytes) :
    decodeCond c w = (shapeOfRow (8 + (subOf w.b0).toNat)).decode c w := by
  have hsub : (subOf w.b0).toNat < 8 := (subOf w.b0).isLt
  unfold decodeCond
  generalize (subOf w.b0).toNat = n at hsub
  interval_cases n <;> rfl

/-- A row of class `10` (R54): the fixed flag of `MOV` and `SWAP`, then the fields. -/
theorem decodeIo_eq_shape (c : Config) (w : InstrBytes) (hrow : row w.b0 = 16 + (subOf w.b0).toNat) :
    decodeIo c w = if badFixedFlag c w.b0 then .error (.illegalInstruction .fixedFlag)
      else (shapeOfRow (16 + (subOf w.b0).toNat)).decode c w := by
  have hsub : (subOf w.b0).toNat < 8 := (subOf w.b0).isLt
  unfold decodeIo badFixedFlag
  rw [hrow]
  generalize (subOf w.b0).toNat = n at hsub
  interval_cases n
  · simp [decodeMov, shapeOfRow, RowShape.decode]
  · simp [decodeSwap, decodeSwapRegs, shapeOfRow, RowShape.decode]
  all_goals rfl

/-- The decoder checks the opcode byte, then decodes the fields of the row's shape (R63, R65). -/
theorem decode_eq_shape (c : Config) (w : InstrBytes) :
    decode c w = (opcodeFault c w.b0).elim ((shapeOfRow (row w.b0)).decode c w)
      fun why => .error (.illegalInstruction why) := by
  have hsub : (subOf w.b0).toNat < 8 := (subOf w.b0).isLt
  have hclass : (classOf w.b0).toNat < 4 := (classOf w.b0).isLt
  have hrow := row_eq_class_sub w.b0
  unfold decode opcodeFault
  split
  · rfl
  · generalize (classOf w.b0).toNat = k at *
    interval_cases k
    · have hfix : badFixedFlag c w.b0 = false := by simp [badFixedFlag]; omega
      simp [decodeAlu_eq_shape, hrow, hfix, Nat.not_le.mpr (by omega : (subOf w.b0).toNat < 24)]
    · have hfix : badFixedFlag c w.b0 = false := by simp [badFixedFlag]; omega
      simp [decodeCond_eq_shape, hrow, hfix, Nat.not_le.mpr (by omega : 8 + (subOf w.b0).toNat < 24)]
    · rw [if_neg (by omega : ¬24 ≤ row w.b0)]
      simp only [decodeIo_eq_shape c w hrow, hrow]
      split <;> rfl
    · rw [if_pos (by omega : 24 ≤ row w.b0)]
      rfl

theorem decode_of_opcodeFault {c : Config} {w : InstrBytes} {why : IllegalReason} (h : opcodeFault c w.b0 = some why) :
    decode c w = .error (.illegalInstruction why) := by
  rw [decode_eq_shape, h]
  rfl

theorem decode_of_legal {c : Config} {w : InstrBytes} (h : opcodeFault c w.b0 = none) :
    decode c w = (shapeOfRow (row w.b0)).decode c w := by
  rw [decode_eq_shape, h]
  rfl

/-- What decodes, decodes from the fields of a row below 24. -/
theorem shape_of_decode {c : Config} {w : InstrBytes} {i : Instr} (h : decode c w = .ok i) :
    row w.b0 < 24 ∧ (shapeOfRow (row w.b0)).decode c w = .ok i := by
  cases hf : opcodeFault c w.b0 with
  | none => exact ⟨((opcodeFault_eq_none_iff c w.b0).mp hf).2.1, (decode_of_legal hf).symm.trans h⟩
  | some why => cases (decode_of_opcodeFault hf).symm.trans h

/-! ## Decoding what was encoded -/

/-- The model's opcode byte is the sum of R65. -/
theorem opcode_eq_opcodeByte {n : Nat} (hn : n < 32) (i1 i2 : Bool) :
    opcode (BitVec.ofNat 8 n) i1 i2 = opcodeByte n i1 i2 := by
  revert n
  cases i1 <;> cases i2 <;> decide

/-- The fields of an opcode byte of R65, its row read as one number (R51). -/
theorem opcodeByte_row {n : Nat} (hn : n < 32) (i1 i2 : Bool) : row (opcodeByte n i1 i2) = n := by
  obtain ⟨-, -, -, hclass, hsub⟩ := opcodeByte_fields hn i1 i2
  rw [row_eq_class_sub, hclass, hsub]
  omega

/-- An opcode byte of R65 whose fixed flag is clear selects its row, whatever the operand bytes hold (R60, R63). -/
theorem decode_opcodeByte {c : Config} {n : Nat} (hn : n < 24) {i1 i2 : Bool}
    (hmov : n ≠ 16 ∨ i2 = false ∨ c.movI2 = .ignore) (hswap : n ≠ 17 ∨ i1 = false) (b1 b2 b3 : Byte) :
    decode c ⟨opcodeByte n i1 i2, b1, b2, b3⟩ = (shapeOfRow n).decode c ⟨opcodeByte n i1 i2, b1, b2, b3⟩ := by
  have hn' : n < 32 := by omega
  obtain ⟨hrsv, h1, h2, -, -⟩ := opcodeByte_fields hn' i1 i2
  have hrow := opcodeByte_row hn' i1 i2
  have hfix : badFixedFlag c (opcodeByte n i1 i2) = false := by
    simp only [badFixedFlag, hrow, h1, h2, Bool.or_eq_false_iff]
    refine ⟨?_, ?_⟩
    · rcases hmov with h | h | h <;> simp [h]
    · rcases hswap with h | h <;> simp [h]
  rw [decode_of_legal ((opcodeFault_eq_none_iff c _).mpr ⟨by simp [hrsv], by rw [hrow]; exact hn, hfix⟩), hrow]

/-- An operand is read back from a word that holds its flag and its byte as operand 1 (R56). -/
theorem decodeOp1_encoded {c : Config} {n : Nat} (hn : n < 24) {a : Operand} (ha : a.wf c = true) (i2 : Bool)
    (b2 b3 : Byte) : decodeOp1 c ⟨opcodeByte n a.flag i2, a.byte, b2, b3⟩ = .ok a := by
  obtain ⟨-, h1, -, -, -⟩ := opcodeByte_fields (by omega : n < 32) a.flag i2
  rw [decodeOp1, h1, decodeOperand_byte _ ha]

theorem decodeOp2_encoded {c : Config} {n : Nat} (hn : n < 24) {b : Operand} (hb : b.wf c = true) (i1 : Bool)
    (b1 b3 : Byte) : decodeOp2 c ⟨opcodeByte n i1 b.flag, b1, b.byte, b3⟩ = .ok b := by
  obtain ⟨-, -, h2, -, -⟩ := opcodeByte_fields (by omega : n < 32) i1 b.flag
  rw [decodeOp2, h2, decodeOperand_byte _ hb]

theorem decodeDest_number {c : Config} {d : Reg} (hd : d.allowed c = true) (b0 b1 b2 : Byte) :
    decodeDest c ⟨b0, b1, b2, d.number⟩ = .ok d :=
  decodeReg_number .dest hd

/-- A row with two operands and a register DEST gives back what was encoded (R64). -/
theorem decode_encodeOpOp_reg {c : Config} {mk : Operand → Operand → Reg → Instr} {n : Nat} (hn : n < 16)
    (hshape : shapeOfRow n = .opOpReg mk) {a b : Operand} {d : Reg}
    (hwf : (a.wf c && b.wf c && d.allowed c) = true) :
    decode c (encodeOpOp (BitVec.ofNat 8 n) a b d.number) = .ok (mk a b d) := by
  obtain ⟨⟨ha, hb⟩, hd⟩ : (a.wf c = true ∧ b.wf c = true) ∧ d.allowed c = true := by simpa using hwf
  rw [encodeOpOp, opcode_eq_opcodeByte (by omega), decode_opcodeByte (by omega) (.inl (by omega)) (.inl (by omega)), hshape]
  exact decodeOpOpReg_encoded (by omega) ha hb hd mk

/-- A comparing jump gives back what was encoded (R64, R101). -/
theorem decode_encodeOpOp_target {c : Config} {mk : Operand → Operand → Target → Instr} {n : Nat} (hn : n < 16)
    (hshape : shapeOfRow n = .opOpTarget mk) {a b : Operand} {x : Target}
    (hwf : (a.wf c && b.wf c && x.wf c) = true) :
    decode c (encodeOpOp (BitVec.ofNat 8 n) a b x.destByte) = .ok (mk a b x) := by
  obtain ⟨⟨ha, hb⟩, hx⟩ : (a.wf c = true ∧ b.wf c = true) ∧ x.wf c = true := by simpa using hwf
  rw [encodeOpOp, opcode_eq_opcodeByte (by omega), decode_opcodeByte (by omega) (.inl (by omega)) (.inl (by omega)), hshape]
  exact decodeOpOpTarget_encoded (by omega) ha hb hx mk

/-- A row with operand 1 and a register DEST gives back what it was made of, whatever the ignored operand 2 holds and, but for
`MOV`, whatever its flag is (R59, R60). -/
theorem decode_opReg_word {c : Config} {mk : Operand → Reg → Instr} {n : Nat} (hn : n < 17) {i2 : Bool}
    (hmov : n ≠ 16 ∨ i2 = false ∨ c.movI2 = .ignore) (hshape : shapeOfRow n = .opReg mk) {a : Operand} {d : Reg}
    (hwf : (a.wf c && d.allowed c) = true) (b2 : Byte) :
    decode c ⟨opcodeByte n a.flag i2, a.byte, b2, d.number⟩ = .ok (mk a d) := by
  obtain ⟨ha, hd⟩ : a.wf c = true ∧ d.allowed c = true := by simpa using hwf
  rw [decode_opcodeByte (by omega) hmov (.inl (by omega)), hshape]
  simp only [RowShape.decode, decodeOpReg, decodeOp1_encoded (by omega : n < 24) ha, decodeDest_number hd]
  rfl

theorem decode_encodeOp_reg {c : Config} {mk : Operand → Reg → Instr} {n : Nat} (hn : n < 17)
    (hshape : shapeOfRow n = .opReg mk) {a : Operand} {d : Reg} (hwf : (a.wf c && d.allowed c) = true) :
    decode c (encodeOp (BitVec.ofNat 8 n) a d.number) = .ok (mk a d) := by
  rw [encodeOp, opcode_eq_opcodeByte (by omega)]
  exact decode_opReg_word hn (.inr (.inl rfl)) hshape hwf 0x00

/-- A row with operand 1 only gives back what was encoded (R64). -/
theorem decode_encodeOp_only {c : Config} {mk : Operand → Instr} {n : Nat} (hn : n < 24) (hswap : n ≠ 17)
    (hshape : shapeOfRow n = .op mk) {a : Operand} (ha : a.wf c = true) :
    decode c (encodeOp (BitVec.ofNat 8 n) a 0x00) = .ok (mk a) := by
  rw [encodeOp, opcode_eq_opcodeByte (by omega), decode_opcodeByte hn (.inr (.inl rfl)) (.inl hswap), hshape]
  simp only [RowShape.decode, decodeOp1_encoded hn ha]
  rfl

/-- The target of `JMP` is read back from the field that holds it (R101, R102). -/
theorem decode_encodeJmp {c : Config} {x : Target} (hx : x.wfJmp c = true) : decode c (encodeJmp x) = .ok (.jmp x) := by
  have hrow (i1 : Bool) (b1 b2 b3 : Byte) : decode c ⟨opcodeByte 8 i1 false, b1, b2, b3⟩ =
      (decodeJmpTarget c ⟨opcodeByte 8 i1 false, b1, b2, b3⟩).map .jmp :=
    decode_opcodeByte (by decide) (.inr (.inl rfl)) (.inl (by decide)) b1 b2 b3
  cases x with
  | reg r =>
    obtain ⟨hr, hj⟩ : r.allowed c = true ∧ c.jumpTarget = .destRegister := by simpa [Target.wfJmp] using hx
    exact (hrow false _ _ _).trans (by simp only [decodeJmpTarget, hj, decodeDest_number hr]; rfl)
  | literal n =>
    have hj : c.jumpTarget = .destLiteral := by simpa [Target.wfJmp] using hx
    exact (hrow false _ _ _).trans (by simp only [decodeJmpTarget, hj]; rfl)
  | op1 o =>
    obtain ⟨ho, hj⟩ : o.wf c = true ∧ c.jumpTarget = .op1Value := by simpa [Target.wfJmp] using hx
    rw [encodeJmp, encodeOp, show (0x08 : Byte) = BitVec.ofNat 8 8 from rfl, opcode_eq_opcodeByte (by decide), hrow]
    simp only [decodeJmpTarget, hj, decodeOp1_encoded (by decide : 8 < 24) ho]
    rfl

/-- The two registers of `SWAP` are read back, whatever the ignored operand 2 and its flag are (R60, R121). -/
theorem decode_swap_word {c : Config} {a d : Reg} (hwf : (Instr.swap a d).wf c = true) (i2 : Bool) (b2 : Byte) :
    decode c ⟨opcodeByte 0x11 false i2, a.number, b2, d.number⟩ = .ok (.swap a d) := by
  obtain ⟨ha, hd⟩ : a.allowed c = true ∧ d.allowed c = true := by simpa [Instr.wf] using hwf
  rw [decode_opcodeByte (by decide) (.inl (by decide)) (.inr rfl)]
  simp only [shapeOfRow, RowShape.decode, decodeSwapRegs, decodeReg_number _ ha, decodeDest_number hd]
  rfl

theorem decode_encode_pop {c : Config} {d : Reg} (hd : d.allowed c = true) : decode c (encode (.pop d)) = .ok (.pop d) := by
  refine (decode_opcodeByte (n := 0x13) (by decide) (.inr (.inl rfl)) (.inr rfl) _ _ _).trans ?_
  simp only [shapeOfRow, RowShape.decode, decodeDest_number hd]
  rfl

theorem decode_encode_wrt {c : Config} {a b : Operand} (hwf : (a.wf c && b.wf c) = true) :
    decode c (encode (.wrt a b)) = .ok (.wrt a b) := by
  obtain ⟨ha, hb⟩ : a.wf c = true ∧ b.wf c = true := by simpa using hwf
  rw [encode, encodeOpOp, show (0x14 : Byte) = BitVec.ofNat 8 0x14 from rfl, opcode_eq_opcodeByte (by decide),
    decode_opcodeByte (by decide) (.inl (by decide)) (.inl (by decide))]
  simp only [shapeOfRow, RowShape.decode, decodeWrt, decodeOp1_encoded (by decide : 0x14 < 24) ha,
    decodeOp2_encoded (by decide : 0x14 < 24) hb]
  rfl

/-- A row that uses no field is selected by its opcode byte alone (R64). -/
theorem decode_bare {c : Config} {n : Nat} (hn : n < 24) {i : Instr}
    (hshape : shapeOfRow n = .bare i) : decode c ⟨opcodeByte n false false, 0x00, 0x00, 0x00⟩ = .ok i := by
  rw [decode_opcodeByte hn (.inr (.inl rfl)) (.inr rfl), hshape]
  rfl

/-- Settles O2: each row gives back the fields its shape encodes. -/
theorem decodeEncodeRoundTrip : Obligations.DecodeEncodeRoundTrip := by
  unfold Obligations.DecodeEncodeRoundTrip
  intro c i hwf
  cases i with
  | and => exact decode_encodeOpOp_reg (n := 0) (by decide) rfl hwf
  | ror => exact decode_encodeOpOp_reg (n := 1) (by decide) rfl hwf
  | add => exact decode_encodeOpOp_reg (n := 2) (by decide) rfl hwf
  | xor => exact decode_encodeOpOp_reg (n := 3) (by decide) rfl hwf
  | or => exact decode_encodeOpOp_reg (n := 4) (by decide) rfl hwf
  | rol => exact decode_encodeOpOp_reg (n := 5) (by decide) rfl hwf
  | sub => exact decode_encodeOpOp_reg (n := 6) (by decide) rfl hwf
  | not => exact decode_encodeOp_reg (n := 7) (by decide) rfl hwf
  | jmp => exact decode_encodeJmp hwf
  | jne => exact decode_encodeOpOp_target (n := 9) (by decide) rfl hwf
  | jge => exact decode_encodeOpOp_target (n := 10) (by decide) rfl hwf
  | jgt => exact decode_encodeOpOp_target (n := 11) (by decide) rfl hwf
  | nop => exact decode_bare (n := 12) (by decide) rfl
  | jeq => exact decode_encodeOpOp_target (n := 13) (by decide) rfl hwf
  | jlt => exact decode_encodeOpOp_target (n := 14) (by decide) rfl hwf
  | jle => exact decode_encodeOpOp_target (n := 15) (by decide) rfl hwf
  | mov => exact decode_encodeOp_reg (n := 16) (by decide) rfl hwf
  | swap => exact decode_swap_word hwf false 0x00
  | push => exact decode_encodeOp_only (n := 18) (by decide) (by decide) rfl hwf
  | pop => exact decode_encode_pop hwf
  | wrt => exact decode_encode_wrt hwf
  | call => exact decode_encodeOp_only (n := 21) (by decide) (by decide) rfl hwf
  | jre => exact decode_bare (n := 22) (by decide) rfl
  | hcf => exact decode_bare (n := 23) (by decide) rfl

end Sys2Proof.Machine


/-! ## What a decoded word is made of, and what faults it -/

namespace Sys2Proof.Machine
open Sys2Proof.Claims

/-! ### Well-formedness (R14, R57, R101) -/

/-- What a row makes of its fields is well formed when they are, and jumps to its target if it is a jump. -/
def RowShape.Faithful : RowShape → Prop
  | .opOpReg mk => ∀ c s a b d,
    (mk a b d).wf c = (a.wf c && b.wf c && d.allowed c) ∧ condition s (mk a b d) = none
  | .opReg mk => ∀ c s a d, (mk a d).wf c = (a.wf c && d.allowed c) ∧ condition s (mk a d) = none
  | .opOpTarget mk => ∀ c s a b x,
    (mk a b x).wf c = (a.wf c && b.wf c && x.wf c) ∧ ∃ k, condition s (mk a b x) = some (k, x)
  | .op mk => ∀ c s a, (mk a).wf c = a.wf c ∧ condition s (mk a) = none
  | .reg mk => ∀ c s d, (mk d).wf c = d.allowed c ∧ condition s (mk d) = none
  | .bare i => ∀ c s, i.wf c = true ∧ condition s i = none
  | .jmp | .swap | .wrt => True

theorem shapeOfRow_faithful (n : Nat) : (shapeOfRow n).Faithful := by
  unfold shapeOfRow
  split
  case h_1 | h_2 | h_3 | h_4 | h_5 | h_6 | h_7 => exact fun _ _ _ _ _ => ⟨rfl, rfl⟩
  case h_8 | h_17 => exact fun _ _ _ _ => ⟨rfl, rfl⟩
  case h_10 | h_11 | h_12 | h_14 | h_15 | h_16 => exact fun _ _ _ _ _ => ⟨rfl, _, rfl⟩
  case h_19 | h_20 | h_22 => exact fun _ _ _ => ⟨rfl, rfl⟩
  case h_13 | h_23 | h_24 => exact fun _ _ => ⟨rfl, rfl⟩
  case h_9 | h_18 | h_21 => trivial

theorem decodeOpOpReg_ok {c : Config} {w : InstrBytes} {mk : Operand → Operand → Reg → Instr} {i : Instr}
    (h : decodeOpOpReg c w mk = .ok i) :
    ∃ a b d, decodeOp1 c w = .ok a ∧ decodeOp2 c w = .ok b ∧ decodeDest c w = .ok d ∧ i = mk a b d := by
  obtain ⟨a, ha, h⟩ := decoded_of_bind_ok h
  obtain ⟨b, hb, h⟩ := decoded_of_bind_ok h
  obtain ⟨d, hd, h⟩ := decoded_of_bind_ok h
  exact ⟨a, b, d, ha, hb, hd, (Except.ok.inj h).symm⟩

theorem decodeOpReg_ok {c : Config} {w : InstrBytes} {mk : Operand → Reg → Instr} {i : Instr}
    (h : decodeOpReg c w mk = .ok i) : ∃ a d, decodeOp1 c w = .ok a ∧ decodeDest c w = .ok d ∧ i = mk a d := by
  obtain ⟨a, ha, h⟩ := decoded_of_bind_ok h
  obtain ⟨d, hd, h⟩ := decoded_of_bind_ok h
  exact ⟨a, d, ha, hd, (Except.ok.inj h).symm⟩

theorem decodeSwapRegs_ok {c : Config} {w : InstrBytes} {i : Instr} (h : decodeSwapRegs c w = .ok i) :
    ∃ a d, decodeReg c .op1 w.b1 = .ok a ∧ decodeDest c w = .ok d ∧ i = .swap a d := by
  obtain ⟨a, ha, h⟩ := decoded_of_bind_ok h
  obtain ⟨d, hd, h⟩ := decoded_of_bind_ok h
  exact ⟨a, d, ha, hd, (Except.ok.inj h).symm⟩

theorem decodeWrt_ok {c : Config} {w : InstrBytes} {i : Instr} (h : decodeWrt c w = .ok i) :
    ∃ a b, decodeOp1 c w = .ok a ∧ decodeOp2 c w = .ok b ∧ i = .wrt a b := by
  obtain ⟨a, ha, h⟩ := decoded_of_bind_ok h
  obtain ⟨b, hb, h⟩ := decoded_of_bind_ok h
  exact ⟨a, b, ha, hb, (Except.ok.inj h).symm⟩

/-- A faithful shape decodes to well-formed instructions only, as each field it decodes is well formed. -/
theorem RowShape.Faithful.decode_wf {sh : RowShape} (faithful : sh.Faithful) {c : Config} {w : InstrBytes} {i : Instr}
    (h : sh.decode c w = .ok i) : i.wf c = true := by
  cases sh with
  | opOpReg mk =>
    obtain ⟨a, b, d, ha, hb, hd, rfl⟩ := decodeOpOpReg_ok h
    rw [(faithful c State.reset a b d).1, decodeOperand_wf ha, decodeOperand_wf hb, decodeReg_allowed hd]
    rfl
  | opReg mk =>
    obtain ⟨a, d, ha, hd, rfl⟩ := decodeOpReg_ok h
    rw [(faithful c State.reset a d).1, decodeOperand_wf ha, decodeReg_allowed hd]
    rfl
  | opOpTarget mk =>
    obtain ⟨a, b, x, ha, hb, hx, rfl⟩ := decodeOpOpTarget_ok h
    rw [(faithful c State.reset a b x).1, decodeOperand_wf ha, decodeOperand_wf hb, decodeTarget_wf hx]
    rfl
  | jmp =>
    obtain ⟨x, hx, rfl⟩ := decoded_of_map_ok h
    exact decodeJmpTarget_wfJmp hx
  | swap =>
    obtain ⟨a, d, ha, hd, rfl⟩ := decodeSwapRegs_ok h
    simp [Instr.wf, decodeReg_allowed ha, decodeReg_allowed hd]
  | op mk =>
    obtain ⟨a, ha, rfl⟩ := decoded_of_map_ok h
    rw [(faithful c State.reset a).1, decodeOperand_wf ha]
  | reg mk =>
    obtain ⟨d, hd, rfl⟩ := decoded_of_map_ok h
    rw [(faithful c State.reset d).1, decodeReg_allowed hd]
  | wrt =>
    obtain ⟨a, b, ha, hb, rfl⟩ := decodeWrt_ok h
    simp [Instr.wf, decodeOperand_wf ha, decodeOperand_wf hb]
  | bare j =>
    cases h
    exact (faithful c State.reset).1

/-- Settles O3: by the shape of the row. -/
theorem decodedIsWellFormed : Obligations.DecodedIsWellFormed := by
  unfold Obligations.DecodedIsWellFormed
  intro c w i h
  exact (shapeOfRow_faithful _).decode_wf (shape_of_decode h).2

/-! ### The target of a decoded jump (R101) -/

/-- Only the rows 8 (`JMP`) and those of the comparing jumps decode to a jump. -/
theorem shapeOfRow_eq_jmp_iff (n : Nat) : shapeOfRow n = .jmp ↔ n = 8 := by
  constructor
  · unfold shapeOfRow
    split <;> simp
  · rintro rfl
    rfl

/-- The target of a decoded jump is the one its row reads: `JMP`'s own in row 8, and else that of a comparing jump. -/
theorem decoded_target {s : State} {w : InstrBytes} {i : Instr} {k : Bool} {x : Target} (h : decode s.cfg w = .ok i)
    (hjump : condition s i = some (k, x)) :
    (row w.b0 = 8 ∧ decodeJmpTarget s.cfg w = .ok x) ∨ (row w.b0 ≠ 8 ∧ decodeTarget s.cfg w = .ok x) := by
  have faithful := shapeOfRow_faithful (row w.b0)
  have hdec := (shape_of_decode h).2
  have hrow := shapeOfRow_eq_jmp_iff (row w.b0)
  generalize shapeOfRow (row w.b0) = sh at faithful hdec hrow
  cases sh with
  | opOpReg mk =>
    obtain ⟨a, b, d, -, -, -, rfl⟩ := decodeOpOpReg_ok hdec
    cases (faithful s.cfg s a b d).2.symm.trans hjump
  | opReg mk =>
    obtain ⟨a, d, -, -, rfl⟩ := decodeOpReg_ok hdec
    cases (faithful s.cfg s a d).2.symm.trans hjump
  | opOpTarget mk =>
    obtain ⟨a, b, y, -, -, hy, rfl⟩ := decodeOpOpTarget_ok hdec
    obtain ⟨-, k', hk⟩ := faithful s.cfg s a b y
    cases hk.symm.trans hjump
    exact .inr ⟨fun h8 => (nomatch hrow.mpr h8), hy⟩
  | jmp =>
    obtain ⟨y, hy, rfl⟩ := decoded_of_map_ok hdec
    cases hjump
    exact .inl ⟨hrow.mp rfl, hy⟩
  | swap =>
    obtain ⟨a, d, -, -, rfl⟩ := decodeSwapRegs_ok hdec
    cases hjump
  | op mk =>
    obtain ⟨a, -, rfl⟩ := decoded_of_map_ok hdec
    cases (faithful s.cfg s a).2.symm.trans hjump
  | reg mk =>
    obtain ⟨d, -, rfl⟩ := decoded_of_map_ok hdec
    cases (faithful s.cfg s d).2.symm.trans hjump
  | wrt =>
    obtain ⟨a, b, -, -, rfl⟩ := decodeWrt_ok hdec
    cases hjump
  | bare j =>
    cases hdec
    cases (faithful s.cfg s).2.symm.trans hjump

/-- A decoded register is the one its byte names (R57). -/
theorem regOfByte_of_decodeReg {c : Config} {f : RegField} {b : Byte} {r : Reg} (h : decodeReg c f b = .ok r) :
    regOfByte c b = some r := by
  unfold decodeReg at h
  split at h
  · cases h
  · split at h
    · cases h
      assumption
    · cases h

/-- A target decoded from a register field has the value of the register that field names. -/
theorem target_of_decodedReg {s : State} {f : RegField} {b : Byte} {x : Target}
    (h : (decodeReg s.cfg f b).map .reg = .ok x) : ∃ r, regOfByte s.cfg b = some r ∧ s.target x = s.readReg r := by
  obtain ⟨r, hr, rfl⟩ := decoded_of_map_ok h
  exact ⟨r, regOfByte_of_decodeReg hr, rfl⟩

/-- Settles O9: by the value of `JUMP_TARGET`, and under `op1_value` by the row and the flag of operand 1. -/
theorem jumpTargetReadings : Obligations.JumpTargetReadings := by
  unfold Obligations.JumpTargetReadings
  intro s w i k x h hjump
  have target := decoded_target h hjump
  simp only [decodeJmpTarget, decodeTarget] at target
  cases hj : s.cfg.jumpTarget with
  | destLiteral =>
    refine ⟨fun _ => ?_, nofun, nofun, nofun, nofun⟩
    obtain ⟨-, hx⟩ | ⟨-, hx⟩ := hj ▸ target <;> cases hx <;> rfl
  | destRegister =>
    refine ⟨nofun, fun _ => ?_, nofun, nofun, nofun⟩
    obtain ⟨-, hx⟩ | ⟨-, hx⟩ := hj ▸ target <;> exact target_of_decodedReg hx
  | op1Value =>
    have hjmp (h8 : row w.b0 = 8) : (decodeOp1 s.cfg w).map .op1 = .ok x := by
      obtain ⟨-, hx⟩ | ⟨hrow, -⟩ := hj ▸ target
      · exact hx
      · exact absurd h8 hrow
    refine ⟨nofun, nofun, fun _ h8 hflag => ?_, fun _ h8 hflag => ?_, fun _ h8 => ?_⟩
    · have hx := hjmp h8
      rw [decodeOp1, hflag, decodeOperand_immediate] at hx
      cases hx
      rfl
    · have hx := hjmp h8
      rw [decodeOp1, hflag] at hx
      obtain ⟨o, ho, rfl⟩ := decoded_of_map_ok hx
      obtain ⟨r, hr, rfl⟩ := decoded_of_map_ok ho
      exact ⟨r, regOfByte_of_decodeReg hr, rfl⟩
    · obtain ⟨hrow, -⟩ | ⟨-, hx⟩ := hj ▸ target
      · exact absurd hrow h8
      · exact target_of_decodedReg hx

end Sys2Proof.Machine


/-! ## Which bytes and flags the decoder looks at, and in which order it faults them -/

namespace Sys2Proof.Machine
open Sys2Proof.Claims

/-! ### The opcode byte (R52, R60, R62) -/

/-- A word of class `11` selects no row (R62). -/
theorem opcodeFault_of_class3 (c : Config) {b0 : Byte} (h : classOf b0 = 3) : ∃ why, opcodeFault c b0 = some why := by
  have hrow : 24 ≤ row b0 := by
    rw [row_eq_class_sub, h]
    exact Nat.le_add_right 24 _
  rw [opcodeFault, if_pos hrow]
  split
  · exact ⟨_, rfl⟩
  · exact ⟨_, rfl⟩

/-- Settles O6: class `11` selects no row, so the step stops with the decode fault. -/
theorem classThreeFaults : Obligations.ClassThreeFaults := by
  unfold Obligations.ClassThreeFaults
  intro s w hrun hfetch hclass
  obtain ⟨why, hfault⟩ := opcodeFault_of_class3 s.cfg hclass
  exact ⟨why, by simp [step, hrun, hfetch, decode_of_opcodeFault hfault, faultOfDecode]⟩

/-- The decoder looks at an opcode byte through its five fields only (R51). -/
theorem decode_congr_opcode {c : Config} {b0 b0' : Byte} (b1 b2 b3 : Byte)
    (hrsv : (rsvBit b0 && c.bit7 == .fault) = (rsvBit b0' && c.bit7 == .fault)) (h1 : flag1 b0 = flag1 b0')
    (h2 : flag2 b0 = flag2 b0') (hclass : classOf b0 = classOf b0') (hsub : subOf b0 = subOf b0') :
    decode c ⟨b0, b1, b2, b3⟩ = decode c ⟨b0', b1, b2, b3⟩ := by
  simp only [decode, decodeAlu, decodeCond, decodeIo, decodeOpOpReg, decodeOpReg, decodeOpOpTarget, decodeJmpTarget,
    decodeTarget, decodeMov, decodeSwap, decodeWrt, decodeOp1, decodeOp2, decodeDest, hrsv, h1, h2, hclass, hsub]

/-- Clearing bit 7 leaves the other fields of the opcode byte (R51). -/
theorem clearBit7_fields (b0 : Byte) :
    rsvBit (b0 &&& 0x7F) = false ∧ flag1 (b0 &&& 0x7F) = flag1 b0 ∧ flag2 (b0 &&& 0x7F) = flag2 b0 ∧
    classOf (b0 &&& 0x7F) = classOf b0 ∧ subOf (b0 &&& 0x7F) = subOf b0 := by
  revert b0
  decide

/-- Settles O5: the policy decides the check of bit 7, and no other field of the opcode byte holds it. -/
theorem reservedOpcodeBit : Obligations.ReservedOpcodeBit := by
  unfold Obligations.ReservedOpcodeBit
  intro c w hbit
  refine ⟨fun hpolicy => ?_, fun hpolicy => ?_⟩
  · exact decode_of_opcodeFault (by simp [opcodeFault, hbit, hpolicy])
  · obtain ⟨-, h1, h2, hclass, hsub⟩ := clearBit7_fields w.b0
    have hoff : (c.bit7 == .fault) = false := by rw [hpolicy]; rfl
    exact decode_congr_opcode _ _ _ (by simp [hoff]) h1.symm h2.symm hclass.symm hsub.symm

/-! ### The used fields (R59, R60, R64) -/

/-- The shape has an operand 1, which `JMP` has under `op1_value` only (R64, R101). -/
def RowShape.hasOp1 (c : Config) : RowShape → Bool
  | .opOpReg _ | .opReg _ | .opOpTarget _ | .swap | .op _ | .wrt => true
  | .jmp => c.jumpTarget == .op1Value
  | .reg _ | .bare _ => false

/-- The shape has an operand 2 (R64). -/
def RowShape.hasOp2 : RowShape → Bool
  | .opOpReg _ | .opOpTarget _ | .wrt => true
  | .opReg _ | .jmp | .swap | .op _ | .reg _ | .bare _ => false

/-- The shape has a DEST, which `JMP` under `op1_value` has not (R64, R101). -/
def RowShape.hasDest (c : Config) : RowShape → Bool
  | .opOpReg _ | .opReg _ | .opOpTarget _ | .swap | .reg _ => true
  | .jmp => !(c.jumpTarget == .op1Value)
  | .op _ | .wrt | .bare _ => false

/-- The columns of R64 are the fields of the rows' shapes. -/
theorem hasOp1_shapeOfRow (c : Config) {n : Nat} (hn : n < 24) :
    (shapeOfRow n).hasOp1 c = (usesOp1 n || (n == 8 && c.jumpTarget == .op1Value)) := by
  interval_cases n <;> rfl

theorem hasOp2_shapeOfRow {n : Nat} (hn : n < 24) : (shapeOfRow n).hasOp2 = usesOp2 n := by
  interval_cases n <;> rfl

theorem hasDest_shapeOfRow (c : Config) {n : Nat} (hn : n < 24) :
    (shapeOfRow n).hasDest c = (usesDest n && !(n == 8 && c.jumpTarget == .op1Value)) := by
  interval_cases n <;> rfl

theorem decodeOp1_congr (c : Config) {w u : InstrBytes} (h : flag1 w.b0 = flag1 u.b0 ∧ w.b1 = u.b1) :
    decodeOp1 c w = decodeOp1 c u := by
  rw [decodeOp1, decodeOp1, h.1, h.2]

theorem decodeOp2_congr (c : Config) {w u : InstrBytes} (h : flag2 w.b0 = flag2 u.b0 ∧ w.b2 = u.b2) :
    decodeOp2 c w = decodeOp2 c u := by
  rw [decodeOp2, decodeOp2, h.1, h.2]

theorem decodeDest_congr (c : Config) {w u : InstrBytes} (h : w.b3 = u.b3) : decodeDest c w = decodeDest c u := by
  rw [decodeDest, decodeDest, h]

theorem decodeTarget_congr (c : Config) {w u : InstrBytes} (h : w.b3 = u.b3) : decodeTarget c w = decodeTarget c u := by
  rw [decodeTarget, decodeTarget, decodeDest_congr c h, h]

/-- Words that agree on the fields a shape has decode alike by it (R59, R60). -/
theorem RowShape.decode_congr (c : Config) (sh : RowShape) {w u : InstrBytes}
    (hop1 : sh.hasOp1 c = true → flag1 w.b0 = flag1 u.b0 ∧ w.b1 = u.b1)
    (hop2 : sh.hasOp2 = true → flag2 w.b0 = flag2 u.b0 ∧ w.b2 = u.b2) (hdest : sh.hasDest c = true → w.b3 = u.b3) :
    sh.decode c w = sh.decode c u := by
  cases sh with
  | opOpReg mk =>
    simp only [decode, decodeOpOpReg, decodeOp1_congr c (hop1 rfl), decodeOp2_congr c (hop2 rfl),
      decodeDest_congr c (hdest rfl)]
  | opReg mk => simp only [decode, decodeOpReg, decodeOp1_congr c (hop1 rfl), decodeDest_congr c (hdest rfl)]
  | opOpTarget mk =>
    simp only [decode, decodeOpOpTarget, decodeOp1_congr c (hop1 rfl), decodeOp2_congr c (hop2 rfl),
      decodeTarget_congr c (hdest rfl)]
  | jmp =>
    simp only [decode, decodeJmpTarget]
    cases hj : c.jumpTarget with
    | destRegister => simp only [decodeDest_congr c (hdest (by simp [hasDest, hj]))]
    | destLiteral => simp only [hdest (by simp [hasDest, hj])]
    | op1Value => simp only [decodeOp1_congr c (hop1 (by simp [hasOp1, hj]))]
  | swap => simp only [decode, decodeSwapRegs, (hop1 rfl).2, decodeDest_congr c (hdest rfl)]
  | op mk => simp only [decode, decodeOp1_congr c (hop1 rfl)]
  | reg mk => simp only [decode, decodeDest_congr c (hdest rfl)]
  | wrt => simp only [decode, decodeWrt, decodeOp1_congr c (hop1 rfl), decodeOp2_congr c (hop2 rfl)]
  | bare i => rfl

/-- Settles O4: the opcode check looks at the fixed flags, and a shape at the fields it has. -/
theorem ignoredFieldsDecodeAlike : Obligations.IgnoredFieldsDecodeAlike := by
  unfold Obligations.IgnoredFieldsDecodeAlike
  intro c w u hform hrsv hrow hop1 hflag2 hop2 hdest
  have hfix : badFixedFlag c w.b0 = badFixedFlag c u.b0 := by
    rw [badFixedFlag, badFixedFlag, ← hrow]
    by_cases h16 : row w.b0 = 16
    · rw [hflag2 (.inr h16), h16]
      rfl
    · by_cases h17 : row w.b0 = 17
      · rw [(hop1 (by rw [h17]; rfl)).1, h17]
        rfl
      · rw [beq_false_of_ne h16, beq_false_of_ne h17]
        rfl
  have hopcode : opcodeFault c w.b0 = opcodeFault c u.b0 := by rw [opcodeFault, opcodeFault, hrsv, hrow, hfix]
  cases hf : opcodeFault c w.b0 with
  | some why => rw [decode_of_opcodeFault hf, decode_of_opcodeFault (hopcode ▸ hf)]
  | none =>
    have hlt : row w.b0 < 24 := ((opcodeFault_eq_none_iff c _).mp hf).2.1
    rw [decode_of_legal hf, decode_of_legal (hopcode ▸ hf), ← hrow]
    refine RowShape.decode_congr c _ (fun h => hop1 ?_) (fun h => ?_) fun h => hdest ?_
    · simpa [hasOp1_shapeOfRow c hlt, hform] using h
    · rw [hasOp2_shapeOfRow hlt] at h
      exact ⟨hflag2 (.inl h), hop2 h⟩
    · simpa [hasDest_shapeOfRow c hlt, hform] using h

/-! ### The faults of the used register fields, in order (R57, R152 item 3) -/

/-- The fault a decoding stops with, if it stops. -/
def faultOf {α : Type} : Except DecodeError α → Option DecodeError
  | .error e => some e
  | .ok _ => none

@[simp] theorem faultOf_ok {α : Type} (x : α) : faultOf (.ok x) = none := rfl

@[simp] theorem faultOf_map {α β : Type} (f : α → β) (d : Except DecodeError α) : faultOf (d.map f) = faultOf d := by
  cases d <;> rfl

/-- Two decodings in sequence stop with the fault of the first, or else of the second. -/
theorem faultOf_bind {α β : Type} (d : Except DecodeError α) (f : α → Except DecodeError β) {o : Option DecodeError}
    (h : ∀ x, faultOf (f x) = o) : faultOf (d >>= f) = (faultOf d).or o := by
  cases d with
  | error e => rfl
  | ok x => exact h x

theorem faultOf_bind_pure {α β : Type} (d : Except DecodeError α) (f : α → β) :
    faultOf (d >>= fun x => pure (f x)) = faultOf d := by
  cases d <;> rfl

/-- The DEST of the shape is a register field: not that of a jump under `dest_literal` (R101). -/
def RowShape.hasDestReg (c : Config) : RowShape → Bool
  | .opOpReg _ | .opReg _ | .swap | .reg _ => true
  | .opOpTarget _ => !(c.jumpTarget == .destLiteral)
  | .jmp => !(c.jumpTarget == .destLiteral) && !(c.jumpTarget == .op1Value)
  | .op _ | .wrt | .bare _ => false

theorem isRegField_op1 (c : Config) {w : InstrBytes} (hrow : row w.b0 < 24) :
    isRegField c w .op1 = ((shapeOfRow (row w.b0)).hasOp1 c && !flag1 w.b0) := by
  rw [isRegField, hasOp1_shapeOfRow c hrow]

theorem isRegField_op2 (c : Config) {w : InstrBytes} (hrow : row w.b0 < 24) :
    isRegField c w .op2 = ((shapeOfRow (row w.b0)).hasOp2 && !flag2 w.b0) := by
  rw [isRegField, hasOp2_shapeOfRow hrow]

theorem isRegField_dest (c : Config) {w : InstrBytes} (hrow : row w.b0 < 24) :
    isRegField c w .dest = (shapeOfRow (row w.b0)).hasDestReg c := by
  rw [isRegField]
  generalize row w.b0 = n at hrow
  interval_cases n <;> simp [usesDest, shapeOfRow, RowShape.hasDestReg]

/-- The fault of the byte `b` as a register field, if it is one (R57). -/
def regFieldFault (c : Config) (f : RegField) (isReg : Bool) (b : Byte) : Option DecodeError :=
  if isReg then faultOf (decodeReg c f b) else none

@[simp] theorem regFieldFault_false (c : Config) (f : RegField) (b : Byte) : regFieldFault c f false b = none := rfl

/-- The fault of a field of the word `w` (R57). -/
def wordFault (c : Config) (w : InstrBytes) (f : RegField) : Option DecodeError :=
  regFieldFault c f (isRegField c w f) (fieldByte w f)

@[simp] theorem faultOf_decodeOp1 (c : Config) (w : InstrBytes) :
    faultOf (decodeOp1 c w) = regFieldFault c .op1 (!flag1 w.b0) w.b1 := by
  rw [decodeOp1]
  cases flag1 w.b0 with
  | true => rfl
  | false => exact faultOf_map _ _

@[simp] theorem faultOf_decodeOp2 (c : Config) (w : InstrBytes) :
    faultOf (decodeOp2 c w) = regFieldFault c .op2 (!flag2 w.b0) w.b2 := by
  rw [decodeOp2]
  cases flag2 w.b0 with
  | true => rfl
  | false => exact faultOf_map _ _

@[simp] theorem faultOf_decodeDest (c : Config) (w : InstrBytes) :
    faultOf (decodeDest c w) = regFieldFault c .dest true w.b3 := rfl

@[simp] theorem faultOf_decodeReg_op1 (c : Config) (b : Byte) :
    faultOf (decodeReg c .op1 b) = regFieldFault c .op1 true b := rfl

@[simp] theorem faultOf_decodeTarget (c : Config) (w : InstrBytes) :
    faultOf (decodeTarget c w) = regFieldFault c .dest (!(c.jumpTarget == .destLiteral)) w.b3 := by
  rw [decodeTarget]
  cases c.jumpTarget with
  | destLiteral => rfl
  | destRegister | op1Value => exact faultOf_map _ _

@[simp] theorem faultOf_decodeOpOpReg (c : Config) (w : InstrBytes) (mk : Operand → Operand → Reg → Instr) :
    faultOf (decodeOpOpReg c w mk) = (faultOf (decodeOp1 c w)).or ((faultOf (decodeOp2 c w)).or (faultOf (decodeDest c w))) :=
  faultOf_bind _ _ fun _ => faultOf_bind _ _ fun _ => faultOf_bind_pure _ _

@[simp] theorem faultOf_decodeOpOpTarget (c : Config) (w : InstrBytes) (mk : Operand → Operand → Target → Instr) :
    faultOf (decodeOpOpTarget c w mk) =
      (faultOf (decodeOp1 c w)).or ((faultOf (decodeOp2 c w)).or (faultOf (decodeTarget c w))) :=
  faultOf_bind _ _ fun _ => faultOf_bind _ _ fun _ => faultOf_bind_pure _ _

@[simp] theorem faultOf_decodeOpReg (c : Config) (w : InstrBytes) (mk : Operand → Reg → Instr) :
    faultOf (decodeOpReg c w mk) = (faultOf (decodeOp1 c w)).or (faultOf (decodeDest c w)) :=
  faultOf_bind _ _ fun _ => faultOf_bind_pure _ _

@[simp] theorem faultOf_decodeSwapRegs (c : Config) (w : InstrBytes) :
    faultOf (decodeSwapRegs c w) = (faultOf (decodeReg c .op1 w.b1)).or (faultOf (decodeDest c w)) :=
  faultOf_bind _ _ fun _ => faultOf_bind_pure _ _

@[simp] theorem faultOf_decodeWrt (c : Config) (w : InstrBytes) :
    faultOf (decodeWrt c w) = (faultOf (decodeOp1 c w)).or (faultOf (decodeOp2 c w)) :=
  faultOf_bind _ _ fun _ => faultOf_bind_pure _ _

@[simp] theorem faultOf_decodeJmpTarget (c : Config) (w : InstrBytes) :
    faultOf (decodeJmpTarget c w) = (regFieldFault c .op1 (c.jumpTarget == .op1Value && !flag1 w.b0) w.b1).or
      (regFieldFault c .dest (!(c.jumpTarget == .destLiteral) && !(c.jumpTarget == .op1Value)) w.b3) := by
  rw [decodeJmpTarget]
  cases c.jumpTarget with
  | destLiteral => rfl
  | destRegister => exact faultOf_map _ _
  | op1Value => exact (faultOf_map _ _).trans ((faultOf_decodeOp1 c w).trans Option.or_none.symm)

/-- A shape stops with the first fault of its register fields. -/
theorem RowShape.faultOf_decode (c : Config) (sh : RowShape) {w : InstrBytes} (hswap : sh = .swap → flag1 w.b0 = false) :
    faultOf (sh.decode c w) = (regFieldFault c .op1 (sh.hasOp1 c && !flag1 w.b0) w.b1).or
      ((regFieldFault c .op2 (sh.hasOp2 && !flag2 w.b0) w.b2).or (regFieldFault c .dest (sh.hasDestReg c) w.b3)) := by
  cases sh with
  | opOpReg | opReg | opOpTarget | jmp | op | reg | wrt => simp [decode, hasOp1, hasOp2, hasDestReg]
  | swap => simp [decode, hswap rfl, hasOp1, hasOp2, hasDestReg]
  | bare => rfl

theorem row_of_shape_swap {n : Nat} (h : shapeOfRow n = .swap) : n = 17 := by
  revert h
  unfold shapeOfRow
  split <;> simp

/-- A word whose opcode byte selects a row stops with the first fault of its register fields, in the order `B1`, `B2`, `B3`
(R57, R152 item 3). -/
theorem faultOf_decode {c : Config} {w : InstrBytes} (hlegal : opcodeFault c w.b0 = none) :
    faultOf (decode c w) = ((wordFault c w .op1).or (wordFault c w .op2)).or (wordFault c w .dest) := by
  obtain ⟨-, hrow, hfix⟩ := (opcodeFault_eq_none_iff c w.b0).mp hlegal
  have hswap : shapeOfRow (row w.b0) = .swap → flag1 w.b0 = false := fun hshape => by
    simpa [badFixedFlag, row_of_shape_swap hshape] using hfix
  rw [decode_of_legal hlegal, RowShape.faultOf_decode c _ hswap, wordFault, wordFault, wordFault, isRegField_op1 c hrow,
    isRegField_op2 c hrow, isRegField_dest c hrow, Option.or_assoc]
  rfl

theorem error_of_faultOf {α : Type} {d : Except DecodeError α} {e : DecodeError} (h : faultOf d = some e) :
    d = .error e := by
  cases d with
  | error e' => exact congrArg Except.error (Option.some.inj h)
  | ok x => cases h

theorem ok_of_faultOf {α : Type} {d : Except DecodeError α} (h : faultOf d = none) : ∃ x, d = .ok x := by
  cases d with
  | error e => cases h
  | ok x => exact ⟨x, rfl⟩

/-- A register may not be named only if it is `r6` and the policy forbids it (R14). -/
theorem allowed_eq_false_iff (c : Config) (r : Reg) : r.allowed c = false ↔ r = .r6 ∧ c.r6 = .fault := by
  cases h : c.r6 <;> simp [Reg.allowed, h]

theorem number_of_regOfNumber {n : Nat} {r : Reg} (h : regOfNumber n = some r) : r.number.toNat = n := by
  unfold regOfNumber at h
  split at h <;> cases h <;> rfl

theorem regOfNumber_eq_none_iff (n : Nat) : regOfNumber n = none ↔ 7 < n := by
  constructor
  · intro h
    by_contra hn
    interval_cases n <;> cases h
  · intro h
    obtain ⟨k, rfl⟩ := Nat.exists_eq_add_of_le' h
    rfl

/-- A register field's byte names no register only if it is above 7 and `REGIDX_POLICY` counts that (R57). -/
theorem regOfByte_eq_none_iff (c : Config) (b : Byte) : regOfByte c b = none ↔ c.regIdx = .fault ∧ 7 < b.toNat := by
  unfold regOfByte
  cases c.regIdx with
  | fault => simp [regOfNumber_eq_none_iff]
  | low3 =>
    simp [regOfNumber_eq_none_iff]
    omega

/-- The register a byte names has the byte's low three bits as its number (R10, R57). -/
theorem number_of_regOfByte {c : Config} {b : Byte} {r : Reg} (h : regOfByte c b = some r) :
    r.number.toNat = b.toNat % 8 := by
  unfold regOfByte at h
  cases hpolicy : c.regIdx with
  | fault =>
    rw [hpolicy] at h
    have hn : r.number.toNat = b.toNat := number_of_regOfNumber h
    have hr : r.number.toNat < 8 := by cases r <;> decide
    omega
  | low3 =>
    rw [hpolicy] at h
    exact number_of_regOfNumber h

theorem eq_r6_iff_number (r : Reg) : r = .r6 ↔ r.number.toNat = 6 := by
  cases r <;> decide

/-- The two faults of a register field, by the register its byte names (R57, R152 item 3). -/
theorem faultOf_decodeReg (c : Config) (f : RegField) (b : Byte) :
    (regOfByte c b = none ∧ faultOf (decodeReg c f b) = some (.illegalOperand f)) ∨
    (regOfByte c b = some .r6 ∧ c.r6 = .fault ∧ faultOf (decodeReg c f b) = some (.reservedRegister f)) ∨
    (∃ r, regOfByte c b = some r ∧ ¬(r = .r6 ∧ c.r6 = .fault) ∧ faultOf (decodeReg c f b) = none) := by
  unfold decodeReg
  cases regOfByte c b with
  | none => exact .inl ⟨rfl, rfl⟩
  | some r =>
    cases hr : r.allowed c with
    | false =>
      obtain ⟨rfl, hpolicy⟩ := (allowed_eq_false_iff c r).mp hr
      exact .inr (.inl ⟨rfl, hpolicy, by simp [faultOf, hr]⟩)
    | true =>
      refine .inr (.inr ⟨r, rfl, fun h => ?_, by simp [hr]⟩)
      exact absurd ((allowed_eq_false_iff c r).mpr h) (by simp [hr])

/-- The fault the statements give a used field is the one its decoding stops with. -/
theorem fieldFault_eq (c : Config) (f : RegField) (used imm : Bool) (b : Byte) :
    fieldFault c f used imm b = regFieldFault c f (used && !imm) b := by
  have hone : fieldFault c f true false b = faultOf (decodeReg c f b) := by
    rcases faultOf_decodeReg c f b with ⟨hreg, hfault⟩ | ⟨hreg, hpolicy, hfault⟩ | ⟨r, hreg, hpolicy, hfault⟩
    · simp [fieldFault, (regOfByte_eq_none_iff c b).mp hreg, hfault]
    · have hsmall := (regOfByte_eq_none_iff c b).not.mp (by simp [hreg])
      have h6 : b.toNat % 8 = 6 := (number_of_regOfByte hreg).symm
      simp [fieldFault, hsmall, h6, hpolicy, hfault]
    · have hsmall := (regOfByte_eq_none_iff c b).not.mp (by simp [hreg])
      rw [eq_r6_iff_number, number_of_regOfByte hreg] at hpolicy
      simp [fieldFault, hsmall, hpolicy, hfault]
  cases used <;> cases imm
  · rfl
  · rfl
  · exact hone
  · rfl

/-- A legal opcode byte selects a row under every choice of parameters (R63). -/
theorem opcodeFault_of_legalOpcode (c : Config) {b0 : Byte} (h : LegalOpcode b0) : opcodeFault c b0 = none := by
  obtain ⟨hrsv, hrow, hmov, hswap⟩ := h
  have hbit : rsvBit b0 = false := by
    rw [rsvBit, BitVec.getLsbD, Nat.testBit_lt_two_pow hrsv]
  refine (opcodeFault_eq_none_iff c b0).mpr ⟨by rw [hbit]; rfl, hrow, ?_⟩
  rw [badFixedFlag]
  by_cases h16 : row b0 = 16
  · rw [hmov h16, h16]
    rfl
  · by_cases h17 : row b0 = 17
    · rw [hswap h17, h17]
      rfl
    · rw [beq_false_of_ne h16, beq_false_of_ne h17]
      rfl

/-- Settles O8: the decoding stops with the first fault of the word's register fields. -/
theorem registerFieldsCheckedInOrder : Obligations.RegisterFieldsCheckedInOrder := by
  unfold Obligations.RegisterFieldsCheckedInOrder
  intro c w hform hopcode
  have hfirst := faultOf_decode (opcodeFault_of_legalOpcode c hopcode)
  have hfields : ((fieldFault c .op1 (usesOp1 (row w.b0)) (flag1 w.b0) w.b1).or
      (fieldFault c .op2 (usesOp2 (row w.b0)) (flag2 w.b0) w.b2)).or
      (fieldFault c .dest (usesDest (row w.b0)) false w.b3) = faultOf (decode c w) := by
    rw [hfirst, fieldFault_eq, fieldFault_eq, fieldFault_eq]
    have hop1 : (c.jumpTarget == .op1Value) = false := by rw [hform]; rfl
    have hliteral : (c.jumpTarget == .destLiteral) = false := by rw [hform]; rfl
    simp [wordFault, isRegField, fieldByte, hop1, hliteral]
  rw [hfields]
  cases hd : faultOf (decode c w) with
  | some e => exact error_of_faultOf hd
  | none => exact ok_of_faultOf hd

/-- What holds of either of two faults holds of the first. -/
theorem first_of_or {α : Type} {P : α → Prop} {x y : Option α} (hx : ∀ e, x = some e → P e)
    (hy : ∀ e, y = some e → P e) : ∀ e, x.or y = some e → P e := by
  intro e h
  rcases Option.or_eq_some_iff.mp h with h | ⟨-, h⟩
  · exact hx e h
  · exact hy e h

/-- Settles O47: every register field faults as `r6` or not at all, and one does. -/
theorem reservedRegisterStopsAtDecode : Obligations.ReservedRegisterStopsAtDecode := by
  unfold Obligations.ReservedRegisterStopsAtDecode
  intro s w f hrun hfetch hpolicy hopcode hrange hf hf6
  have hlegal : opcodeFault s.cfg w.b0 = none := by
    cases h : opcodeFault s.cfg w.b0 with
    | none => rfl
    | some why => exact absurd (decode_of_opcodeFault h) (hopcode why)
  have hfields (g : RegField) (e : DecodeError) (h : wordFault s.cfg w g = some e) :
      ∃ g, isRegField s.cfg w g = true ∧ regOfByte s.cfg (fieldByte w g) = some .r6 ∧ e = .reservedRegister g := by
    cases hg : isRegField s.cfg w g with
    | false => simp [wordFault, hg] at h
    | true =>
      simp only [wordFault, hg, regFieldFault, if_true] at h
      rcases faultOf_decodeReg s.cfg g (fieldByte w g) with ⟨hnone, -⟩ | ⟨h6, -, he⟩ | ⟨r, -, -, he⟩
      · exact absurd hnone (hrange g hg)
      · exact ⟨g, hg, h6, Option.some.inj (h.symm.trans he)⟩
      · cases he.symm.trans h
  have hone : wordFault s.cfg w f ≠ none := by
    rcases faultOf_decodeReg s.cfg f (fieldByte w f) with ⟨hnone, -⟩ | ⟨-, -, he⟩ | ⟨r, hr, hok, -⟩
    · exact absurd hnone (hrange f hf)
    · simp [wordFault, hf, regFieldFault, he]
    · cases hf6.symm.trans hr
      exact absurd ⟨rfl, hpolicy⟩ hok
  cases hd : faultOf (decode s.cfg w) with
  | none =>
    rw [faultOf_decode hlegal] at hd
    simp only [Option.or_eq_none_iff] at hd
    obtain ⟨⟨h1, h2⟩, h3⟩ := hd
    cases f with
    | op1 => exact absurd h1 hone
    | op2 => exact absurd h2 hone
    | dest => exact absurd h3 hone
  | some e =>
    have hstep : step s = .fault (faultOfDecode e) := by simp [step, hrun, hfetch, error_of_faultOf hd]
    rw [faultOf_decode hlegal] at hd
    obtain ⟨g, hg, h6, rfl⟩ := first_of_or (first_of_or (hfields .op1) (hfields .op2)) (hfields .dest) e hd
    exact ⟨g, hg, h6, hstep⟩

/-! ### Words and opcode bytes written out -/

/-- Settles O1: each word, decoded. -/
theorem workedEncodingsDecode : Obligations.WorkedEncodingsDecode := by
  unfold Obligations.WorkedEncodingsDecode
  decide

/-- Settles O7: the 256 opcode bytes, decoded and counted. -/
theorem opcodeSpaceCount : Obligations.OpcodeSpaceCount := by
  unfold Obligations.OpcodeSpaceCount
  rfl

end Sys2Proof.Machine


/-! ## The meanings of well-formed instructions, where no check of a field stops them -/

namespace Sys2Proof.Machine
open Sys2Proof.Claims

/-- The check of one register passes when it may be named (R14). -/
theorem State.guard_reg (s : State) (f : RegField) {r : Reg} (hr : r.allowed s.cfg = true) (k : Result) :
    s.guard [(f, r)] k = k :=
  s.guard_operandRegs f (o := .reg r) hr k

theorem State.alu_of_wf {s : State} (f : Byte → Byte → Byte) {a b : Operand} {d : Reg} (ha : a.wf s.cfg = true)
    (hb : b.wf s.cfg = true) (hd : d.allowed s.cfg = true) :
    s.alu f a b d = s.writeBack d (f (s.value a) (s.value b)) := by
  rw [State.alu, State.guard_append, State.guard_append, s.guard_operandRegs _ ha, s.guard_operandRegs _ hb,
    s.guard_reg _ hd]

theorem execNot_of_wf {s : State} {a : Operand} {d : Reg} (ha : a.wf s.cfg = true) (hd : d.allowed s.cfg = true) :
    execNot a d s = s.writeBack d (notResult s.cfg.notKind (s.value a)) := by
  rw [execNot, State.guard_append, s.guard_operandRegs _ ha, s.guard_reg _ hd]

theorem State.compareJump_of_wf {s : State} (c : Byte → Byte → Bool) {a b : Operand} {x : Target}
    (ha : a.wf s.cfg = true) (hb : b.wf s.cfg = true) (hx : x.wf s.cfg = true) :
    s.compareJump c a b x = s.jumpIf (c (s.value a) (s.value b)) (s.target x) := by
  rw [State.compareJump, State.guard_append, State.guard_append, s.guard_operandRegs _ ha, s.guard_operandRegs _ hb,
    s.guard_targetRegs hx]

theorem execMov_of_wf {s : State} {a : Operand} {d : Reg} (ha : a.wf s.cfg = true) (hd : d.allowed s.cfg = true) :
    execMov a d s = s.writeBack d (s.value a) := by
  rw [execMov, State.guard_append, s.guard_operandRegs _ ha, s.guard_reg _ hd]

/-- The state after the two writes of `SWAP`, both made of what was read before (R121). -/
def State.swapped (s : State) (a d : Reg) : State :=
  (s.writeReg s.r4 a (s.readReg d)).writeReg s.r4 d (s.readReg a)

@[simp] theorem State.swapped_stack (s : State) (a d : Reg) : (s.swapped a d).stack = s.stack := by simp [swapped]
@[simp] theorem State.swapped_term (s : State) (a d : Reg) : (s.swapped a d).term = s.term := by simp [swapped]
@[simp] theorem State.swapped_halted (s : State) (a d : Reg) : (s.swapped a d).halted = s.halted := by simp [swapped]
@[simp] theorem State.swapped_prog (s : State) (a d : Reg) : (s.swapped a d).prog = s.prog := by simp [swapped]
@[simp] theorem State.swapped_cfg (s : State) (a d : Reg) : (s.swapped a d).cfg = s.cfg := by simp [swapped]

theorem execSwap_of_wf {s : State} {a d : Reg} (ha : a.allowed s.cfg = true) (hd : d.allowed s.cfg = true) :
    execSwap a d s = if a = .r7 ∨ d = .r7 then .next (s.swapped a d) else (s.swapped a d).advance :=
  (s.guard_append [(.op1, a)] [(.dest, d)] _).trans ((s.guard_reg _ ha _).trans (s.guard_reg _ hd _))

theorem execPush_of_wf {s : State} {a : Operand} (ha : a.wf s.cfg = true) :
    execPush a s = s.push (s.value a) State.advance :=
  s.guard_operandRegs _ ha _

theorem execPop_of_wf {s : State} {d : Reg} (hd : d.allowed s.cfg = true) :
    execPop d s = s.pop fun v t => t.writeBack d v :=
  s.guard_reg _ hd _

theorem execCall_of_wf {s : State} {a : Operand} (ha : a.wf s.cfg = true) :
    execCall a s = s.push s.nextPc fun t => .next (t.setPc (s.value a)) :=
  s.guard_operandRegs _ ha _

/-- What `WRT` does with an output format, or without one (R124). -/
theorem execWrt_of_wf {s : State} {a b : Operand} (ha : a.wf s.cfg = true) (hb : b.wf s.cfg = true) :
    (∀ fmt, wrtFormat s.cfg.wrtFmt (s.value b) = some fmt →
      execWrt a b s = (s.emit (wrtEvent fmt (s.value a))).advance) ∧
    (wrtFormat s.cfg.wrtFmt (s.value b) = none → execWrt a b s = .fault (.illegalWrtFormat (s.value b))) := by
  rw [execWrt, State.guard_append, s.guard_operandRegs _ ha, s.guard_operandRegs _ hb]
  exact ⟨fun fmt h => by rw [h], fun h => by rw [h]⟩

/-! ### `ADD`, `SUB`, `ROR`, `ROL` and `NOT` -/

/-- Settles O16: both keep the rule of the class, and Lean's `+` and `-` on bytes are modulo 256. -/
theorem additionAndSubtractionResults : Obligations.AdditionAndSubtractionResults := by
  unfold Obligations.AdditionAndSubtractionResults
  refine ⟨aluRule_of_alu (fun v w => v + w) (by decide) (fun _ _ h => by simp only [decodeAlu, h]) (fun _ _ _ _ => rfl)
      (fun _ _ _ _ => rfl) fun v w => BitVec.toNat_add v w,
    aluRule_of_alu (fun v w => v - w) (by decide) (fun _ _ h => by simp only [decodeAlu, h]) (fun _ _ _ _ => rfl)
      (fun _ _ _ _ => rfl) fun v w => ?_⟩
  rw [BitVec.toNat_sub]
  omega

/-- Bit `i` of a byte rotated toward bit 0 (R82, K1). -/
theorem getLsbD_ror8 (v n : Byte) {i : Nat} (hi : i < 8) : (ror8 v n).getLsbD i = v.getLsbD ((i + n.toNat) % 8) := by
  rw [← Nat.add_mod_mod]
  have hk : n.toNat % 8 < 8 := Nat.mod_lt _ (by decide)
  simp only [ror8]
  generalize n.toNat % 8 = k at hk
  split
  · subst k
    rw [Nat.add_zero, Nat.mod_eq_of_lt hi]
  · rw [BitVec.getLsbD_or, BitVec.getLsbD_ushiftRight, BitVec.getLsbD_shiftLeft]
    by_cases h : i + k < 8
    · simp [hi, Nat.mod_eq_of_lt h, Nat.add_comm k i, (by omega : i < 8 - k)]
    · rw [(by omega : (i + k) % 8 = i - (8 - k)), BitVec.getLsbD_of_ge v (k + i) (by omega)]
      simp [hi, Nat.le_of_not_lt h]

/-- Bit `i` of a byte goes `n` places toward bit 7 (R86, K1). -/
theorem getLsbD_rol8 (v n : Byte) {i : Nat} (hi : i < 8) : (rol8 v n).getLsbD ((i + n.toNat) % 8) = v.getLsbD i := by
  rw [← Nat.add_mod_mod]
  have hk : n.toNat % 8 < 8 := Nat.mod_lt _ (by decide)
  simp only [rol8]
  generalize n.toNat % 8 = k at hk
  split
  · subst k
    rw [Nat.add_zero, Nat.mod_eq_of_lt hi]
  · rw [BitVec.getLsbD_or, BitVec.getLsbD_ushiftRight, BitVec.getLsbD_shiftLeft]
    by_cases h : i + k < 8
    · rw [Nat.mod_eq_of_lt h, BitVec.getLsbD_of_ge v (8 - k + (i + k)) (by omega)]
      simp [h]
    · rw [(by omega : (i + k) % 8 = i + k - 8)]
      simp [(by omega : i + k - 8 < k), (by omega : 8 - k + (i + k - 8) = i)]

/-- Settles O17: both keep the rule of the class, with the bits a rotation moves. -/
theorem rotationResults : Obligations.RotationResults := by
  unfold Obligations.RotationResults
  exact ⟨aluRule_of_alu ror8 (by decide) (fun _ _ h => by simp only [decodeAlu, h]) (fun _ _ _ _ => rfl)
      (fun _ _ _ _ => rfl) fun v w _ hi => getLsbD_ror8 v w hi,
    aluRule_of_alu rol8 (by decide) (fun _ _ h => by simp only [decodeAlu, h]) (fun _ _ _ _ => rfl)
      (fun _ _ _ _ => rfl) fun v w _ hi => getLsbD_rol8 v w hi⟩

/-- A write-back that can end writes DEST and moves `pc`, and nothing else (R17, R21, R23). -/
theorem State.writeBack_completes {s : State} {d : Reg} (v : Byte) (hpc : d = .r7 ∨ Advances s) :
    ∃ t, s.writeBack d v = .next t ∧ WroteReg s t d v :=
  ⟨_, s.writeBack_eq d v hpc, State.writeBack_wroteReg (s.writeBack_eq d v hpc)⟩

/-- Under `NOT_KIND = bitwise` every bit of the result is the complement of the operand's (R88). -/
theorem getLsbD_notResult_bitwise (v : Byte) {i : Nat} (hi : i < 8) :
    (notResult .bitwise v).getLsbD i = !v.getLsbD i := by
  rw [notResult, BitVec.getLsbD_xor, show (0xFF : Byte) = BitVec.allOnes 8 from rfl, BitVec.getLsbD_allOnes]
  simp [hi]

/-- Under `NOT_KIND = logical` the result says whether the operand is zero (R88). -/
theorem toNat_notResult_logical (v : Byte) : (notResult .logical v).toNat = if v.toNat = 0 then 1 else 0 := by
  revert v
  decide

/-- Settles O18: row 7, and the two kinds of complement. -/
theorem Settled.notResult : Obligations.NotResult := by
  unfold Obligations.NotResult
  intro s a d
  refine ⟨fun hwf i2 b2 => decode_opReg_word (n := 7) (by decide) (.inl (by decide)) rfl hwf b2, fun hwf hpc => ?_⟩
  obtain ⟨ha, hd⟩ : a.wf s.cfg = true ∧ d.allowed s.cfg = true := by simpa [Instr.wf] using hwf
  obtain ⟨t, ended, written⟩ := State.writeBack_completes _ hpc
  refine ⟨t, _, (execNot_of_wf ha hd).trans ended, written, fun hkind i hi => ?_, fun hkind => ?_⟩
  · rw [hkind, getLsbD_notResult_bitwise _ hi]
  · rw [hkind, toNat_notResult_logical]

/-! ### `JMP` -/

/-- Settles O21: `JMP` is a jump whose condition always holds. -/
theorem jumpAlways : Obligations.JumpAlways := by
  unfold Obligations.JumpAlways
  intro s x hwf
  exact execJmp_eq hwf

/-! ### `MOV` and `SWAP` -/

/-- `MOV` with `i2` set is illegal under `MOV_I2_POLICY = fault` (R60). -/
theorem decode_mov_illegal {c : Config} (h : c.movI2 = .fault) (i1 : Bool) (b1 b2 b3 : Byte) :
    decode c ⟨opcodeByte 0x10 i1 true, b1, b2, b3⟩ = .error (.illegalInstruction .fixedFlag) := by
  obtain ⟨hrsv, -, h2, -, -⟩ := opcodeByte_fields (by decide : 0x10 < 32) i1 true
  have hrow := opcodeByte_row (by decide : 0x10 < 32) i1 true
  have hoff : (c.movI2 == .fault) = true := by rw [h]; rfl
  exact decode_of_opcodeFault (by simp [opcodeFault, badFixedFlag, hrsv, h2, hrow, hoff])

/-- Settles O25: row 16 and its fixed flag, and the write-back of operand 1. -/
theorem movResult : Obligations.MovResult := by
  unfold Obligations.MovResult
  intro s a d hwf
  obtain ⟨ha, hd⟩ : a.wf s.cfg = true ∧ d.allowed s.cfg = true := by simpa [Instr.wf] using hwf
  refine ⟨decode_opReg_word (n := 16) (by decide) (.inr (.inl rfl)) rfl hwf,
    fun b2 hpolicy => decode_opReg_word (n := 16) (by decide) (.inr (.inr hpolicy)) rfl hwf b2,
    fun b1 b2 b3 hpolicy => decode_mov_illegal hpolicy a.flag b1 b2 b3, fun hpc => ?_⟩
  obtain ⟨t, ended, written⟩ := State.writeBack_completes (s.value a) hpc
  exact ⟨t, (execMov_of_wf ha hd).trans ended, written⟩

/-- A `SWAP` word with `i1` set selects no row (R60). -/
theorem opcodeFault_of_swap_i1 (c : Config) {b0 : Byte} (hrow : row b0 = 17) (h1 : flag1 b0 = true) :
    ∃ why, opcodeFault c b0 = some why := by
  have hfix : badFixedFlag c b0 = true := by simp [badFixedFlag, hrow, h1]
  cases h : opcodeFault c b0 with
  | some why => exact ⟨why, rfl⟩
  | none =>
    obtain ⟨-, -, hclear⟩ := (opcodeFault_eq_none_iff c b0).mp h
    cases hclear.symm.trans hfix

/-- What the two writes of `SWAP` leave in each part of the state, the second over the first (R121). -/
theorem State.swapped_fields (s : State) (a d : Reg) :
    (s.swapped a d).r0 = (if d = .r0 then s.readReg a else if a = .r0 then s.readReg d else s.r0) ∧
    (s.swapped a d).r1 = (if d = .r1 then s.readReg a else if a = .r1 then s.readReg d else s.r1) ∧
    (s.swapped a d).r2 = (if d = .r2 then s.readReg a else if a = .r2 then s.readReg d else s.r2) ∧
    (s.swapped a d).r3 = (if d = .r3 then s.readReg a else if a = .r3 then s.readReg d else s.r3) ∧
    (s.swapped a d).r4 = (if d = .r4 then s.readReg a else if a = .r4 then s.readReg d else s.r4) ∧
    (s.swapped a d).pc = (if d = .r7 then s.readReg a else if a = .r7 then s.readReg d else s.pc) ∧
    ∀ x, (s.swapped a d).ram.read x = if x = s.r4.toNat ∧ d = .r5 then s.readReg a
      else if x = s.r4.toNat ∧ a = .r5 then s.readReg d else s.ram.read x := by
  obtain ⟨f0, f1, f2, f3, f4, fpc, fram⟩ := s.writeReg_fields s.r4 a (s.readReg d)
  obtain ⟨g0, g1, g2, g3, g4, gpc, gram⟩ := (s.writeReg s.r4 a (s.readReg d)).writeReg_fields s.r4 d (s.readReg a)
  refine ⟨by rw [swapped, g0, f0], by rw [swapped, g1, f1], by rw [swapped, g2, f2], by rw [swapped, g3, f3],
    by rw [swapped, g4, f4], by rw [swapped, gpc, fpc], fun x => ?_⟩
  rw [swapped, gram, fram]
  by_cases hd : d = .r5 <;> by_cases ha : a = .r5 <;> by_cases hx : x = s.r4.toNat <;> simp [hd, ha, hx]

/-- `SWAP` completes with the two writes and the advance of `pc`, unless one of the two is `r7` (R21, R121). -/
theorem execSwap_completes {s : State} {a d : Reg} (ha : a.allowed s.cfg = true) (hd : d.allowed s.cfg = true)
    (hpc : a = .r7 ∨ d = .r7 ∨ Advances s) :
    execSwap a d s = .next ((s.swapped a d).setPc
      (if d = .r7 then s.readReg a else if a = .r7 then s.readReg d else s.pc + 1)) := by
  obtain ⟨-, -, -, -, -, spc, -⟩ := s.swapped_fields a d
  rw [execSwap_of_wf ha hd]
  by_cases h7 : a = .r7 ∨ d = .r7
  · have hkeep : (if d = .r7 then s.readReg a else if a = .r7 then s.readReg d else s.pc + 1) = (s.swapped a d).pc := by
      rw [spc]
      rcases h7 with h7 | h7 <;> simp [h7]
    rw [if_pos h7, hkeep]
    rfl
  · obtain ⟨ha7, hd7⟩ := not_or.mp h7
    have hadv : Advances s := (hpc.resolve_left ha7).resolve_left hd7
    simp only [ha7, hd7, if_false] at spc
    rw [if_neg h7, if_neg hd7, if_neg ha7, State.advance_next_iff]
    exact ⟨by rw [State.swapped_cfg, spc]; exact hadv, by rw [State.nextPc, spc]⟩

/-- Settles O26: row 17 and its fixed flag, and the two writes. -/
theorem swapResult : Obligations.SwapResult := by
  unfold Obligations.SwapResult
  refine ⟨fun c w hrow h1 => ?_, fun c a d hwf i2 b2 => decode_swap_word hwf i2 b2, fun s a d hwf hpc => ?_⟩
  · obtain ⟨why, h⟩ := opcodeFault_of_swap_i1 c hrow h1
    exact ⟨why, decode_of_opcodeFault h⟩
  · obtain ⟨ha, hd⟩ : a.allowed s.cfg = true ∧ d.allowed s.cfg = true := by simpa [Instr.wf] using hwf
    obtain ⟨s0, s1, s2, s3, s4, -, sram⟩ := s.swapped_fields a d
    exact ⟨_, execSwap_completes ha hd hpc, s0, s1, s2, s3, s4, rfl, sram,
      s.swapped_stack a d, s.swapped_term a d, s.swapped_halted a d, s.swapped_prog a d, s.swapped_cfg a d⟩

end Sys2Proof.Machine


/-! ## The `IO` class: stack, terminal, `JRE` and `HCF` -/

namespace Sys2Proof.Machine
open Sys2Proof.Claims

/-- The stack is full exactly when it has no room for one more byte (R25). -/
theorem State.stackFull_eq_false_iff (s : State) : s.stackFull = false ↔ HasRoom s := by
  unfold State.stackFull HasRoom
  cases s.cfg.stackDepth <;> simp

theorem State.stackFull_eq_true_iff (s : State) : s.stackFull = true ↔ ¬HasRoom s := by
  rw [← s.stackFull_eq_false_iff, Bool.not_eq_false]

/-- `Push` goes on with the byte on top when there is room (R25). -/
theorem State.push_of_room {s : State} (h : HasRoom s) (v : Byte) (k : State → Result) :
    s.push v k = k (s.setStack (v :: s.stack)) :=
  if_neg (by simpa [s.stackFull_eq_false_iff] using h)

theorem State.push_of_full {s : State} (h : ¬HasRoom s) (v : Byte) (k : State → Result) :
    s.push v k = .fault .stackOverflow :=
  if_pos (s.stackFull_eq_true_iff.mpr h)

/-- `Pop` goes on with the top byte off a stack that has one (R25). -/
theorem State.pop_of_cons {s : State} {v : Byte} {below : List Byte} (h : s.stack = v :: below)
    (k : Byte → State → Result) : s.pop k = k v (s.setStack below) := by
  rw [State.pop, h]

theorem State.pop_of_nil {s : State} (h : s.stack = []) (k : Byte → State → Result) :
    s.pop k = .fault .stackUnderflow := by
  rw [State.pop, h]

/-- The automatic advance, where it is possible (R21). -/
theorem State.advance_of_advances {s : State} (h : Advances s) : s.advance = .next (s.setPc (s.pc + 1)) :=
  if_neg h

theorem State.advance_of_not_advances {s : State} (h : ¬Advances s) : s.advance = .fault .pcWrap :=
  if_pos (not_not.mp h)

/-! ### What a completed instruction of the class did -/

theorem execSwap_next {s t : State} {a d : Reg} (h : execSwap a d s = .next t) :
    ((a = .r7 ∨ d = .r7) ∧ t = s.swapped a d) ∨ (a ≠ .r7 ∧ d ≠ .r7 ∧ (s.swapped a d).advance = .next t) := by
  have ended : (if a = .r7 ∨ d = .r7 then .next (s.swapped a d) else (s.swapped a d).advance) = .next t :=
    State.guard_next _ _ _ _ h
  split at ended
  · cases ended
    exact .inl ⟨‹_›, rfl⟩
  · obtain ⟨ha, hd⟩ := not_or.mp ‹_›
    exact .inr ⟨ha, hd, ended⟩

theorem execPush_next {s t : State} {a : Operand} (h : execPush a s = .next t) :
    HasRoom s ∧ (s.setStack (s.value a :: s.stack)).advance = .next t :=
  (State.push_next _ _ _ _ (State.guard_next _ _ _ _ h)).imp_left s.stackFull_eq_false_iff.mp

theorem execPop_next {s t : State} {d : Reg} (h : execPop d s = .next t) :
    ∃ v below, s.stack = v :: below ∧ (s.setStack below).writeBack d v = .next t :=
  State.pop_next _ _ _ (State.guard_next _ _ _ _ h)

theorem execWrt_next {s t : State} {a b : Operand} (h : execWrt a b s = .next t) :
    ∃ e, (s.emit e).advance = .next t := by
  have ended := State.guard_next _ _ _ _ h
  split at ended
  · cases ended
  · exact ⟨_, ended⟩

theorem execCall_next {s t : State} {a : Operand} (h : execCall a s = .next t) :
    HasRoom s ∧ t = (s.setStack (s.nextPc :: s.stack)).setPc (s.value a) := by
  obtain ⟨hroom, ended⟩ := State.push_next _ _ _ _ (State.guard_next _ _ _ _ h)
  cases ended
  exact ⟨s.stackFull_eq_false_iff.mp hroom, rfl⟩

theorem execJre_next {s t : State} (h : execJre s = .next t) : ∃ v, t = s.setPc v := by
  simp only [execJre] at h
  split at h
  · cases h
  · cases h
    exact ⟨_, rfl⟩

/-! ### `PUSH`, `POP`, `CALL` and `HCF` -/

/-- Settles O27: `Push`, then the automatic advance. -/
theorem pushResult : Obligations.PushResult := by
  unfold Obligations.PushResult
  intro s a hwf
  refine ⟨fun hroom hadv => ?_, fun hfull => ?_⟩
  · have pushed : Advances (s.setStack (s.value a :: s.stack)) := hadv
    exact (execPush_of_wf hwf).trans ((State.push_of_room hroom _ _).trans (State.advance_of_advances pushed))
  · exact (execPush_of_wf hwf).trans (State.push_of_full hfull _ _)

/-- Settles O28: `Pop`, then the write-back. -/
theorem popResult : Obligations.PopResult := by
  unfold Obligations.PopResult
  intro s d hwf
  refine ⟨fun v below hstack hpc => ?_, fun hempty => ?_⟩
  · obtain ⟨t, ended, written⟩ := State.writeBack_completes (s := s.setStack below) v hpc
    exact ⟨t, (execPop_of_wf hwf).trans ((State.pop_of_cons hstack _).trans ended), written⟩
  · exact (execPop_of_wf hwf).trans (State.pop_of_nil hempty _)

/-- Settles O30: `Push` of the next slot, then the jump. -/
theorem callResult : Obligations.CallResult := by
  unfold Obligations.CallResult
  intro s a hwf
  exact ⟨fun hroom => (execCall_of_wf hwf).trans (State.push_of_room hroom _ _),
    fun hfull => (execCall_of_wf hwf).trans (State.push_of_full hfull _ _)⟩

/-- Settles O33: `CALL` leaves the next slot on top, and `POP r7` takes it off into `pc`. -/
theorem callThenReturn : Obligations.CallThenReturn := by
  unfold Obligations.CallThenReturn
  refine ⟨rfl, fun s t u a hcall hstack => ?_⟩
  obtain ⟨-, rfl⟩ := execCall_next hcall
  have hr7 : Reg.r7.allowed u.cfg = true := rfl
  exact (execPop_of_wf hr7).trans (State.pop_of_cons hstack _)

/-- Settles O32: `HCF` is the automatic advance of the halted state. -/
theorem hcfHalts : Obligations.HcfHalts := by
  unfold Obligations.HcfHalts
  intro s
  exact ⟨fun h => State.advance_of_advances (s := s.setHalted true) h,
    fun h => State.advance_of_not_advances (s := s.setHalted true) h⟩

/-! ### `WRT` -/

/-- The format value 0 to 3 of an output format (R124). -/
def formatValue : WrtFormat → Nat
  | .ascii => 0
  | .decimal => 1
  | .alphabetic => 2
  | .hexadecimal => 3

/-- Each format shows a value as its alphabet says, `?` past its end (R124 to R127). -/
theorem wrtEvent_eq_wrtShows (fmt : WrtFormat) (v : Byte) : wrtEvent fmt v = wrtShows (formatValue fmt) v.toNat := by
  revert v
  cases fmt <;> decide

/-- Under `WRT_FMT_POLICY = low2` every value selects the format of its bits 1:0 (R124). -/
theorem wrtFormat_low2 (v : Byte) : ∃ fmt, wrtFormat .low2 v = some fmt ∧ formatValue fmt = v.toNat % 4 := by
  have hn : v.toNat % 4 < 4 := Nat.mod_lt _ (by decide)
  unfold wrtFormat
  generalize v.toNat % 4 = n at hn
  interval_cases n <;> exact ⟨_, rfl, rfl⟩

/-- The values 0 to 3 select their format under either policy (R124). -/
theorem wrtFormat_of_le (p : WrtFmtPolicy) {v : Byte} (hv : v.toNat ≤ 3) :
    ∃ fmt, wrtFormat p v = some fmt ∧ formatValue fmt = v.toNat := by
  cases p with
  | low2 => simpa [Nat.mod_eq_of_lt (Nat.lt_succ_of_le hv)] using wrtFormat_low2 v
  | fault =>
    unfold wrtFormat
    generalize v.toNat = n at hv
    interval_cases n <;> exact ⟨_, rfl, rfl⟩

/-- A value selects no format only above 3 and under `WRT_FMT_POLICY = fault` (R124). -/
theorem wrtFormat_eq_none_iff (p : WrtFmtPolicy) (v : Byte) : wrtFormat p v = none ↔ p = .fault ∧ 3 < v.toNat := by
  constructor
  · intro h
    cases p with
    | low2 =>
      obtain ⟨fmt, hfmt, -⟩ := wrtFormat_low2 v
      cases hfmt.symm.trans h
    | fault =>
      refine ⟨rfl, Nat.lt_of_not_le fun hv => ?_⟩
      obtain ⟨fmt, hfmt, -⟩ := wrtFormat_of_le .fault hv
      cases hfmt.symm.trans h
  · rintro ⟨rfl, hv⟩
    revert v
    decide

/-- With a format, `WRT` appends the one event its value shows and advances (R124 to R127). -/
theorem execWrt_completes {s : State} {a b : Operand} (hwf : (Instr.wrt a b).wf s.cfg = true) (hadv : Advances s)
    {n : Nat} (hfmt : ∃ fmt, wrtFormat s.cfg.wrtFmt (s.value b) = some fmt ∧ formatValue fmt = n) :
    execWrt a b s = .next ((s.setTerm (s.term ++ [wrtShows n (s.value a).toNat])).setPc (s.pc + 1)) := by
  obtain ⟨ha, hb⟩ : a.wf s.cfg = true ∧ b.wf s.cfg = true := by simpa [Instr.wf] using hwf
  obtain ⟨fmt, hfmt, rfl⟩ := hfmt
  have emitted : Advances (s.emit (wrtEvent fmt (s.value a))) := hadv
  rw [(execWrt_of_wf ha hb).1 fmt hfmt, State.advance_of_advances emitted, wrtEvent_eq_wrtShows]
  rfl

/-- Settles O29: a value selects its format, and the format its event. -/
theorem wrtResult : Obligations.WrtResult := by
  unfold Obligations.WrtResult
  intro s a b hwf
  refine ⟨fun hv hadv => execWrt_completes hwf hadv (wrtFormat_of_le _ hv),
    fun hpolicy hadv => execWrt_completes hwf hadv (hpolicy ▸ wrtFormat_low2 _), fun hpolicy hv => ?_⟩
  obtain ⟨ha, hb⟩ : a.wf s.cfg = true ∧ b.wf s.cfg = true := by simpa [Instr.wf] using hwf
  exact (execWrt_of_wf ha hb).2 ((wrtFormat_eq_none_iff _ _).mpr ⟨hpolicy, hv⟩)

/-! ### `JRE` -/

/-- The exact sum of `JRE`, its offset written out as two's complement (R6, R129). -/
theorem jreSum_eq (base off : Byte) :
    jreSum base off = base.toNat + (if off.toNat < 128 then (off.toNat : Int) else off.toNat - 256) := by
  rw [jreSum, BitVec.toInt_eq_toNat_cond]
  split <;> split <;> omega

/-- Settles O31: `JRE` goes to its sum modulo 256, unless the sum is outside 0 to 255 and that faults. -/
theorem jreResult : Obligations.JreResult := by
  unfold Obligations.JreResult
  intro s
  simp only [← jreSum_eq]
  refine ⟨fun hpc => ?_, fun hwrap hout => if_pos ⟨hwrap, hout⟩⟩
  have inRange : ¬(s.cfg.pcWrap = .fault ∧ (jreSum s.pcValue s.r0 < 0 ∨ 255 < jreSum s.pcValue s.r0)) := by
    rintro ⟨hfault, hout⟩
    rcases hpc with hwrap | hin
    · cases hwrap.symm.trans hfault
    · change 0 ≤ jreSum s.pcValue s.r0 ∧ jreSum s.pcValue s.r0 ≤ 255 at hin
      omega
  refine ⟨BitVec.ofInt 8 (jreSum s.pcValue s.r0), if_neg inRange, ?_⟩
  rw [BitVec.toNat_ofInt]
  exact Int.toNat_of_nonneg (Int.emod_nonneg _ (by decide))

/-! ## A field that names `r6`, and a target read in another way -/

theorem operandRegs_snd (f : RegField) (o : Operand) : (operandRegs f o).map Prod.snd = usedRegs.operand o := by
  cases o <;> rfl

theorem targetRegs_snd (x : Target) : (targetRegs x).map Prod.snd = usedRegs.target x := by
  cases x with
  | reg | literal => rfl
  | op1 o => exact operandRegs_snd _ o

/-- Every instruction checks the registers it names before it does anything else (R14, R57). -/
theorem exec_eq_guard (i : Instr) (s : State) :
    ∃ used k, exec i s = s.guard used k ∧ used.map Prod.snd = usedRegs i := by
  cases i with
  | and | ror | add | xor | or | rol | sub | jne | jge | jgt | jeq | jlt | jle =>
    exact ⟨_, _, rfl, by simp [operandRegs_snd, targetRegs_snd, usedRegs]⟩
  | not | mov | wrt => exact ⟨_, _, rfl, by simp [operandRegs_snd, usedRegs]⟩
  | jmp => exact ⟨_, _, rfl, targetRegs_snd _⟩
  | push | call => exact ⟨_, _, rfl, operandRegs_snd _ _⟩
  | swap | pop => exact ⟨_, _, rfl, rfl⟩
  | nop | jre | hcf => exact ⟨[], _, rfl, rfl⟩

/-- A register that may not be named stops the check that looks at it (R14). -/
theorem State.guard_of_reserved {s : State} {used : List (RegField × Reg)} (k : Result) {r : Reg}
    (hr : r ∈ used.map Prod.snd) (hnot : r.allowed s.cfg = false) : ∃ f, s.guard used k = .fault (.reservedRegister f) := by
  obtain ⟨u, hu, rfl⟩ := List.mem_map.mp hr
  unfold State.guard
  split
  · exact ⟨_, rfl⟩
  · rename_i hnone
    exact absurd hnot (by simpa using List.find?_eq_none.mp hnone u hu)

/-- Settles O14: `r6` is among the registers the instruction checks first. -/
theorem reservedRegisterStops : Obligations.ReservedRegisterStops := by
  unfold Obligations.ReservedRegisterStops
  intro s i hpolicy h6
  obtain ⟨used, k, hexec, hused⟩ := exec_eq_guard i s
  obtain ⟨f, hf⟩ := State.guard_of_reserved k (hused ▸ h6) ((allowed_eq_false_iff s.cfg .r6).mpr ⟨rfl, hpolicy⟩)
  exact ⟨f, hexec.trans hf⟩

/-- Two targets a jump cannot tell apart in the state `s`: neither's check stops it, and they have the same value. -/
structure State.TargetsAlike (s : State) (x y : Target) : Prop where
  guard : ∀ k, s.guard (targetRegs x) k = s.guard (targetRegs y) k
  target : s.target x = s.target y

namespace State.TargetsAlike

variable {s : State} {x y : Target}

/-- A register that reads `n`, in place of the literal `n` (R101). -/
theorem reg_literal {r : Reg} {n : Byte} (hr : r.allowed s.cfg = true) (hn : s.readReg r = n) :
    TargetsAlike s (.reg r) (.literal n) := ⟨s.guard_reg _ hr, hn⟩

/-- An operand of value `n`, in place of the literal `n` (R101). -/
theorem op1_literal {o : Operand} {n : Byte} (ho : o.wf s.cfg = true) (hn : s.value o = n) :
    TargetsAlike s (.op1 o) (.literal n) := ⟨s.guard_operandRegs _ ho, hn⟩

theorem execJmp (h : TargetsAlike s x y) : Machine.execJmp x s = Machine.execJmp y s := by
  rw [Machine.execJmp, Machine.execJmp, h.guard, h.target]

theorem compareJump (h : TargetsAlike s x y) (c : Byte → Byte → Bool) (a b : Operand) :
    s.compareJump c a b x = s.compareJump c a b y := by
  simp only [State.compareJump, State.guard_append, h.guard, h.target]

/-- Targets that act alike are exchangeable in every jump. -/
theorem exec_withTarget (h : TargetsAlike s x y) (i : Instr) : exec (withTarget x i) s = exec (withTarget y i) s := by
  cases i with
  | jmp => exact h.execJmp
  | jne | jge | jgt | jeq | jlt | jle => exact h.compareJump _ _ _
  | and | ror | add | xor | or | rol | sub | not | nop | mov | swap | push | pop | wrt | call | jre | hcf => rfl

end State.TargetsAlike

/-- Settles O24: an allowed register and an operand act like the literal of their value. -/
theorem jumpReadingsAgree : Obligations.JumpReadingsAgree := by
  unfold Obligations.JumpReadingsAgree
  intro s i r n o hr ho hreg hop
  exact ⟨(State.TargetsAlike.reg_literal hr hreg).exec_withTarget i, (State.TargetsAlike.op1_literal ho hop).execJmp⟩

end Sys2Proof.Machine


/-! ## What a completed instruction leaves alone, and how it can stop -/

namespace Sys2Proof.Machine
open Sys2Proof.Claims

/-- Settles O36: the frame of the instruction's destinations, read at `r0` to `r3`. -/
theorem onlyDestinationsChange : Obligations.OnlyDestinationsChange := by
  unfold Obligations.OnlyDestinationsChange
  intro s t i h
  have frame := exec_sameBut_destinations h
  exact ⟨frame.r0, frame.r1, frame.r2, frame.r3⟩

/-- Settles O37: the frame of the instruction's destinations, read at RAM. -/
theorem ramChangesOnlyThroughR5 : Obligations.RamChangesOnlyThroughR5 := by
  unfold Obligations.RamChangesOnlyThroughR5
  intro s t i h
  exact (exec_sameBut_destinations h).ram

/-- What a step that answers a next state did: nothing, if halted, or else one decoded instruction (R172). -/
theorem step_next {s t : State} (h : step s = .next t) :
    (s.halted = true ∧ t = s) ∨ ∃ w i, s.fetch = some w ∧ decode s.cfg w = .ok i ∧ exec i s = .next t := by
  unfold step at h
  split at h
  · cases h
    exact .inl ⟨‹_›, rfl⟩
  · split at h
    · cases h
    · split at h
      · cases h
      · exact .inr ⟨_, _, ‹_›, ‹_›, h⟩

/-- Settles O41: no instruction's frame opens the program store or the parameters. -/
theorem programIsReadOnly : Obligations.ProgramIsReadOnly := by
  unfold Obligations.ProgramIsReadOnly
  intro s t h
  rcases step_next h with ⟨-, rfl⟩ | ⟨w, i, -, -, hexec⟩
  · exact ⟨rfl, rfl⟩
  · have frame := exec_sameBut_destinations hexec
    exact ⟨frame.prog, frame.cfg⟩

/-! ### Stack, terminal and `HALTED` -/

/-- `t` has the stack, the terminal and the halted flag of `s`. -/
structure State.SameHidden (s t : State) : Prop where
  stack : t.stack = s.stack
  term : t.term = s.term
  halted : t.halted = s.halted

namespace State.SameHidden

variable {s t : State}

theorem advance (h : s.advance = .next t) : SameHidden s t := by
  obtain ⟨-, rfl⟩ := (State.advance_next_iff s t).mp h
  exact ⟨rfl, rfl, rfl⟩

theorem writeBack {d : Reg} {v : Byte} (h : s.writeBack d v = .next t) : SameHidden s t :=
  have written := State.writeBack_wroteReg h
  ⟨written.stack, written.term, written.halted⟩

theorem alu {f : Byte → Byte → Byte} {a b : Operand} {d : Reg} (h : s.alu f a b d = .next t) : SameHidden s t :=
  writeBack (State.guard_next _ _ _ _ h)

theorem jumpIf {c : Bool} {x : Byte} (h : s.jumpIf c x = .next t) : SameHidden s t := by
  obtain rfl := State.jumpIf_next s c x t h
  exact ⟨rfl, rfl, rfl⟩

theorem compareJump {c : Byte → Byte → Bool} {a b : Operand} {x : Target} (h : s.compareJump c a b x = .next t) :
    SameHidden s t :=
  jumpIf (State.guard_next _ _ _ _ h)

end State.SameHidden

/-- How an instruction can leave the stack (R25): a byte more, where there is room for it, or a byte less. -/
def StackEffect (i : Instr) (s t : State) : Prop :=
  t.stack = s.stack ∨ (HasRoom s ∧ ((∃ a, i = .push a) ∨ ∃ a, i = .call a) ∧ ∃ v, t.stack = v :: s.stack) ∨
    ((∃ d, i = .pop d) ∧ ∃ v, s.stack = v :: t.stack)

/-- How an instruction can leave the terminal (R26). -/
def TermEffect (i : Instr) (s t : State) : Prop :=
  t.term = s.term ∨ ((∃ a b, i = .wrt a b) ∧ ∃ e, t.term = s.term ++ [e])

/-- How an instruction can leave `HALTED` (R27). -/
def HaltEffect (i : Instr) (s t : State) : Prop :=
  t.halted = s.halted ∨ (i = .hcf ∧ t.halted = true)

/-- Everything a completed instruction can do to stack, terminal and `HALTED`. -/
structure HiddenEffect (i : Instr) (s t : State) : Prop where
  stack : StackEffect i s t
  term : TermEffect i s t
  halted : HaltEffect i s t

theorem State.SameHidden.effect {s t : State} (h : SameHidden s t) (i : Instr) : HiddenEffect i s t :=
  ⟨.inl h.stack, .inl h.term, .inl h.halted⟩

theorem execSwap_hidden {s t : State} {a d : Reg} (h : execSwap a d s = .next t) : s.SameHidden t := by
  have swapped : s.SameHidden (s.swapped a d) := ⟨s.swapped_stack a d, s.swapped_term a d, s.swapped_halted a d⟩
  rcases execSwap_next h with ⟨-, rfl⟩ | ⟨-, -, ended⟩
  · exact swapped
  · obtain ⟨-, rfl⟩ := (State.advance_next_iff _ t).mp ended
    exact ⟨swapped.stack, swapped.term, swapped.halted⟩

theorem execPush_hidden {s t : State} {a : Operand} (h : execPush a s = .next t) : HiddenEffect (.push a) s t := by
  obtain ⟨hroom, ended⟩ := execPush_next h
  have pushed := State.SameHidden.advance ended
  exact ⟨.inr (.inl ⟨hroom, .inl ⟨a, rfl⟩, _, pushed.stack⟩), .inl pushed.term, .inl pushed.halted⟩

theorem execPop_hidden {s t : State} {d : Reg} (h : execPop d s = .next t) : HiddenEffect (.pop d) s t := by
  obtain ⟨v, below, hstack, ended⟩ := execPop_next h
  have popped := State.SameHidden.writeBack ended
  refine ⟨.inr (.inr ⟨⟨d, rfl⟩, v, ?_⟩), .inl popped.term, .inl popped.halted⟩
  rw [popped.stack]
  exact hstack

theorem execWrt_hidden {s t : State} {a b : Operand} (h : execWrt a b s = .next t) : HiddenEffect (.wrt a b) s t := by
  obtain ⟨e, ended⟩ := execWrt_next h
  have emitted := State.SameHidden.advance ended
  exact ⟨.inl emitted.stack, .inr ⟨⟨a, b, rfl⟩, e, emitted.term⟩, .inl emitted.halted⟩

theorem execCall_hidden {s t : State} {a : Operand} (h : execCall a s = .next t) : HiddenEffect (.call a) s t := by
  obtain ⟨hroom, rfl⟩ := execCall_next h
  exact ⟨.inr (.inl ⟨hroom, .inr ⟨a, rfl⟩, _, rfl⟩), .inl rfl, .inl rfl⟩

theorem execJre_hidden {s t : State} (h : execJre s = .next t) : s.SameHidden t := by
  obtain ⟨v, rfl⟩ := execJre_next h
  exact ⟨rfl, rfl, rfl⟩

theorem execHcf_hidden {s t : State} (h : execHcf s = .next t) : HiddenEffect .hcf s t :=
  have ended := State.SameHidden.advance h
  ⟨.inl ended.stack, .inl ended.term, .inr ⟨rfl, ended.halted⟩⟩

/-- The hidden state changes by `PUSH`, `CALL`, `POP`, `WRT` and `HCF` only, each in its own part. -/
theorem exec_hiddenEffect {i : Instr} {s t : State} (h : exec i s = .next t) : HiddenEffect i s t := by
  cases i with
  | and | ror | add | xor | or | rol | sub => exact (State.SameHidden.alu h).effect _
  | not | mov => exact (State.SameHidden.writeBack (State.guard_next _ _ _ _ h)).effect _
  | jmp => exact (State.SameHidden.jumpIf (State.guard_next _ _ _ _ h)).effect _
  | jne | jge | jgt | jeq | jlt | jle => exact (State.SameHidden.compareJump h).effect _
  | nop => exact (State.SameHidden.advance h).effect _
  | swap => exact (execSwap_hidden h).effect _
  | push => exact execPush_hidden h
  | pop => exact execPop_hidden h
  | wrt => exact execWrt_hidden h
  | call => exact execCall_hidden h
  | jre => exact (execJre_hidden h).effect _
  | hcf => exact execHcf_hidden h

/-- Settles O38: the effect on the hidden state, part by part. -/
theorem hiddenStateChanges : Obligations.HiddenStateChanges := by
  unfold Obligations.HiddenStateChanges
  intro s t i h
  obtain ⟨hstack, hterm, hhalted⟩ := exec_hiddenEffect h
  refine ⟨?_, hterm, hhalted⟩
  rcases hstack with hsame | ⟨-, hpush | hcall, htop⟩ | hpop
  · exact .inl hsame
  · exact .inr (.inl ⟨hpush, htop⟩)
  · exact .inr (.inr (.inl ⟨hcall, htop⟩))
  · exact .inr (.inr (.inr hpop))

/-! ### The program counter -/

/-- Where `pc` is the next slot of a completed instruction, and the advance was possible (R21). -/
def Advanced (s t : State) : Prop := t.pc = s.pc + 1 ∧ Advances s

theorem advanced_of_advance {s t u : State} (h : t.advance = .next u) (hpc : t.pc = s.pc) (hcfg : t.cfg = s.cfg) :
    Advanced s u := by
  obtain ⟨hadv, rfl⟩ := (State.advance_next_iff t u).mp h
  rw [hpc, hcfg] at hadv
  exact ⟨congrArg (· + 1) hpc, hadv⟩

theorem advanced_of_writeBack {s t : State} {d : Reg} {v : Byte} (h : s.writeBack d v = .next t) (hd : .r7 ∉ [d]) :
    Advanced s t := by
  have hd : d ≠ .r7 := fun h7 => hd (List.mem_singleton.mpr h7.symm)
  rw [State.writeBack, if_neg hd] at h
  obtain ⟨-, -, -, -, -, hpc, -⟩ := s.writeReg_fields s.r4 d v
  exact advanced_of_advance h (hpc.trans (if_neg hd)) (s.writeReg_cfg s.r4 d v)

theorem advanced_of_jumpIf {s t : State} {c : Bool} {x : Byte} (h : s.jumpIf c x = .next t) (hc : c = false) :
    Advanced s t := by
  subst c
  exact advanced_of_advance h rfl rfl

theorem advanced_of_execSwap {s t : State} {a d : Reg} (h : execSwap a d s = .next t) (h7 : .r7 ∉ [a, d]) :
    Advanced s t := by
  have ha : a ≠ .r7 := fun e => h7 (by simp [e])
  have hd : d ≠ .r7 := fun e => h7 (by simp [e])
  obtain ⟨-, -, ended⟩ := (execSwap_next h).resolve_left fun h => h.1.elim ha hd
  obtain ⟨-, -, -, -, -, hpc, -⟩ := s.swapped_fields a d
  rw [if_neg hd, if_neg ha] at hpc
  exact advanced_of_advance ended hpc (s.swapped_cfg a d)

/-- A comparing jump that was not taken advanced (R100). -/
theorem ComparingJump.advanced {mk : Operand → Operand → Target → Instr} {sub : Nat} (jump : ComparingJump mk sub)
    {s t : State} {a b : Operand} {x : Target} (h : Machine.exec (mk a b x) s = .next t)
    (hnot : ¬∃ y, Claims.condition s (mk a b x) = some (true, y)) : Advanced s t := by
  rw [jump.exec] at h
  refine advanced_of_jumpIf (State.guard_next _ _ _ _ h) (Bool.eq_false_iff.mpr fun htaken => hnot ⟨x, ?_⟩)
  exact (jump.condition s a b x).trans (congrArg (fun k => some (k, x)) htaken)

/-- Settles O39: what does not write `pc` ends in the automatic advance. -/
theorem automaticAdvance : Obligations.AutomaticAdvance := by
  unfold Obligations.AutomaticAdvance
  intro s t i h hpc
  obtain ⟨hdest, hcall, hjre, hnot⟩ : .r7 ∉ destinations i ∧ (¬∃ a, i = .call a) ∧ i ≠ .jre ∧
      ¬∃ x, condition s i = some (true, x) := by simpa only [writesPc, not_or] using hpc
  cases i with
  | and | ror | add | xor | or | rol | sub | not | mov =>
    exact advanced_of_writeBack (State.guard_next _ _ _ _ h) hdest
  | jmp x => exact absurd ⟨x, rfl⟩ hnot
  | jne => exact comparingJump_jne.advanced h hnot
  | jge => exact comparingJump_jge.advanced h hnot
  | jgt => exact comparingJump_jgt.advanced h hnot
  | jeq => exact comparingJump_jeq.advanced h hnot
  | jlt => exact comparingJump_jlt.advanced h hnot
  | jle => exact comparingJump_jle.advanced h hnot
  | nop => exact advanced_of_advance h rfl rfl
  | swap => exact advanced_of_execSwap h hdest
  | push => exact advanced_of_advance (execPush_next h).2 rfl rfl
  | pop =>
    obtain ⟨v, below, -, ended⟩ := execPop_next h
    have popped : Advanced (s.setStack below) t := advanced_of_writeBack ended hdest
    exact popped
  | wrt =>
    obtain ⟨e, ended⟩ := execWrt_next h
    exact advanced_of_advance ended rfl rfl
  | call a => exact absurd ⟨a, rfl⟩ hcall
  | jre => exact absurd rfl hjre
  | hcf => exact advanced_of_advance h rfl rfl

/-! ### The invariant -/

/-- Two writes of registers, the second after the first, keep the canonical form of RAM. -/
theorem State.swapped_ram_wf {s : State} (a d : Reg) (h : s.ram.wf = true) : (s.swapped a d).ram.wf = true :=
  State.writeReg_wf _ _ _ _ (State.writeReg_wf _ _ _ _ h)

theorem ram_wf_of_advance {s t : State} (h : s.advance = .next t) (hwf : s.ram.wf = true) : t.ram.wf = true := by
  obtain ⟨-, rfl⟩ := (State.advance_next_iff s t).mp h
  exact hwf

theorem ram_wf_of_writeBack {s t : State} {d : Reg} {v : Byte} (h : s.writeBack d v = .next t)
    (hwf : s.ram.wf = true) : t.ram.wf = true := by
  obtain rfl := State.writeBack_next s d v t h
  split
  · exact hwf
  · exact State.writeReg_wf s s.r4 d v hwf

theorem ram_wf_of_jumpIf {s t : State} {c : Bool} {x : Byte} (h : s.jumpIf c x = .next t) (hwf : s.ram.wf = true) :
    t.ram.wf = true := by
  obtain rfl := State.jumpIf_next s c x t h
  exact hwf

theorem ram_wf_of_execSwap {s t : State} {a d : Reg} (h : execSwap a d s = .next t) (hwf : s.ram.wf = true) :
    t.ram.wf = true := by
  rcases execSwap_next h with ⟨-, rfl⟩ | ⟨-, -, ended⟩
  · exact State.swapped_ram_wf a d hwf
  · exact ram_wf_of_advance ended (State.swapped_ram_wf a d hwf)

/-- Every instruction keeps the canonical form of RAM (R29, R32). -/
theorem exec_ram_wf {i : Instr} {s t : State} (h : exec i s = .next t) (hwf : s.ram.wf = true) : t.ram.wf = true := by
  cases i with
  | and | ror | add | xor | or | rol | sub | not | mov => exact ram_wf_of_writeBack (State.guard_next _ _ _ _ h) hwf
  | jmp | jne | jge | jgt | jeq | jlt | jle => exact ram_wf_of_jumpIf (State.guard_next _ _ _ _ h) hwf
  | nop | hcf => exact ram_wf_of_advance h hwf
  | swap => exact ram_wf_of_execSwap h hwf
  | push => exact ram_wf_of_advance (execPush_next h).2 hwf
  | pop =>
    obtain ⟨v, below, -, ended⟩ := execPop_next h
    exact ram_wf_of_writeBack ended hwf
  | wrt =>
    obtain ⟨e, ended⟩ := execWrt_next h
    exact ram_wf_of_advance ended hwf
  | call =>
    obtain ⟨-, rfl⟩ := execCall_next h
    exact hwf
  | jre =>
    obtain ⟨v, rfl⟩ := execJre_next h
    exact hwf

/-- A stack within its depth stays within it: a byte is added only where there is room (R25). -/
theorem StackEffect.within {i : Instr} {s t : State} (h : StackEffect i s t) {depth : Nat}
    (hdepth : s.cfg.stackDepth = some depth) (hle : s.stack.length ≤ depth) : t.stack.length ≤ depth := by
  rcases h with hsame | ⟨hroom, -, v, htop⟩ | ⟨-, v, hpop⟩
  · rw [hsame]
    exact hle
  · rw [htop]
    exact hroom depth hdepth
  · rw [hpop, List.length_cons] at hle
    omega

/-- Settles O45: every instruction keeps the form of RAM and the depth of the stack, and none writes the program store. -/
theorem stepKeepsInvariant : Obligations.StepKeepsInvariant := by
  unfold Obligations.StepKeepsInvariant
  intro s t hinv h
  rcases step_next h with ⟨-, rfl⟩ | ⟨w, i, -, -, hexec⟩
  · exact hinv
  · obtain ⟨hram, hprog, hstack⟩ := hinv
    have frame := exec_sameBut_destinations hexec
    refine ⟨exec_ram_wf hexec hram, frame.prog ▸ hprog, fun depth hdepth => ?_⟩
    rw [frame.cfg] at hdepth
    exact (exec_hiddenEffect hexec).stack.within hdepth (hstack depth hdepth)

/-! ### The faults of a well-formed instruction -/

/-- It completes, or its automatic advance faults (R21). -/
def CompletesOrWraps (s : State) (r : Result) : Prop :=
  (∃ t, r = .next t) ∨ (r = .fault .pcWrap ∧ s.cfg.pcWrap = .fault ∧ s.pc = 0xFF)

theorem State.advance_completesOrWraps {s t : State} (hpc : t.pc = s.pc) (hcfg : t.cfg = s.cfg) :
    CompletesOrWraps s t.advance := by
  unfold State.advance
  split
  · exact .inr ⟨rfl, hcfg ▸ hpc ▸ ‹_›⟩
  · exact .inl ⟨_, rfl⟩

theorem State.writeBack_completesOrWraps {s t : State} (hpc : t.pc = s.pc) (hcfg : t.cfg = s.cfg) (d : Reg) (v : Byte) :
    CompletesOrWraps s (t.writeBack d v) := by
  unfold State.writeBack
  split
  · exact .inl ⟨_, rfl⟩
  · obtain ⟨-, -, -, -, -, wpc, -⟩ := t.writeReg_fields t.r4 d v
    rw [if_neg ‹_›] at wpc
    exact State.advance_completesOrWraps (wpc.trans hpc) ((t.writeReg_cfg t.r4 d v).trans hcfg)

theorem State.jumpIf_completesOrWraps (s : State) (c : Bool) (x : Byte) : CompletesOrWraps s (s.jumpIf c x) := by
  cases c with
  | true => exact .inl ⟨_, rfl⟩
  | false => exact State.advance_completesOrWraps rfl rfl

theorem execSwap_completesOrWraps {s : State} {a d : Reg} (ha : a.allowed s.cfg = true) (hd : d.allowed s.cfg = true) :
    CompletesOrWraps s (execSwap a d s) := by
  rw [execSwap_of_wf ha hd]
  split
  · exact .inl ⟨_, rfl⟩
  · obtain ⟨ha7, hd7⟩ := not_or.mp ‹_›
    obtain ⟨-, -, -, -, -, hpc, -⟩ := s.swapped_fields a d
    rw [if_neg hd7, if_neg ha7] at hpc
    exact State.advance_completesOrWraps hpc (s.swapped_cfg a d)

/-- Every way a well-formed instruction can end (R151): completed, or stopped by one of four faults. -/
def EndsAsSpecified (s : State) (i : Instr) : Prop :=
  (∃ t, exec i s = .next t) ∨
  (exec i s = .fault .stackOverflow ∧ ¬HasRoom s ∧ ((∃ a, i = .push a) ∨ ∃ a, i = .call a)) ∨
  (exec i s = .fault .stackUnderflow ∧ s.stack = [] ∧ ∃ d, i = .pop d) ∨
  (∃ a b, i = .wrt a b ∧ exec i s = .fault (.illegalWrtFormat (s.value b)) ∧ s.cfg.wrtFmt = .fault ∧
    3 < (s.value b).toNat) ∨
  (exec i s = .fault .pcWrap ∧ s.cfg.pcWrap = .fault ∧ (s.pc = 0xFF ∨ i = .jre))

theorem CompletesOrWraps.ends {s : State} {i : Instr} (h : CompletesOrWraps s (exec i s)) : EndsAsSpecified s i :=
  h.imp_right fun ⟨hfault, hwrap, hpc⟩ => .inr (.inr (.inr ⟨hfault, hwrap, .inl hpc⟩))

theorem execPush_ends {s : State} {a : Operand} (ha : a.wf s.cfg = true) : EndsAsSpecified s (.push a) := by
  have hexec : exec (.push a) s = s.push (s.value a) State.advance := execPush_of_wf ha
  by_cases hroom : HasRoom s
  · refine CompletesOrWraps.ends ?_
    rw [hexec, State.push_of_room hroom]
    exact State.advance_completesOrWraps rfl rfl
  · exact .inr (.inl ⟨hexec.trans (State.push_of_full hroom _ _), hroom, .inl ⟨a, rfl⟩⟩)

theorem execCall_ends {s : State} {a : Operand} (ha : a.wf s.cfg = true) : EndsAsSpecified s (.call a) := by
  have hexec : exec (.call a) s = s.push s.nextPc fun t => .next (t.setPc (s.value a)) := execCall_of_wf ha
  by_cases hroom : HasRoom s
  · exact .inl ⟨_, hexec.trans (State.push_of_room hroom _ _)⟩
  · exact .inr (.inl ⟨hexec.trans (State.push_of_full hroom _ _), hroom, .inr ⟨a, rfl⟩⟩)

theorem execPop_ends {s : State} {d : Reg} (hd : d.allowed s.cfg = true) : EndsAsSpecified s (.pop d) := by
  have hexec : exec (.pop d) s = s.pop fun v t => t.writeBack d v := execPop_of_wf hd
  cases hstack : s.stack with
  | nil => exact .inr (.inr (.inl ⟨hexec.trans (State.pop_of_nil hstack _), hstack, d, rfl⟩))
  | cons v below =>
    refine CompletesOrWraps.ends ?_
    rw [hexec, State.pop_of_cons hstack]
    exact State.writeBack_completesOrWraps rfl rfl d v

theorem execWrt_ends {s : State} {a b : Operand} (ha : a.wf s.cfg = true) (hb : b.wf s.cfg = true) :
    EndsAsSpecified s (.wrt a b) := by
  obtain ⟨hsome, hnone⟩ := execWrt_of_wf ha hb
  cases hfmt : wrtFormat s.cfg.wrtFmt (s.value b) with
  | none =>
    exact .inr (.inr (.inr (.inl ⟨a, b, rfl, hnone hfmt, (wrtFormat_eq_none_iff _ _).mp hfmt⟩)))
  | some fmt =>
    have hexec : exec (.wrt a b) s = (s.emit (wrtEvent fmt (s.value a))).advance := hsome fmt hfmt
    refine CompletesOrWraps.ends ?_
    rw [hexec]
    exact State.advance_completesOrWraps rfl rfl

theorem execJre_ends (s : State) : EndsAsSpecified s .jre := by
  by_cases hout : s.cfg.pcWrap = .fault ∧ (jreSum s.pcValue s.r0 < 0 ∨ 255 < jreSum s.pcValue s.r0)
  · exact .inr (.inr (.inr (.inr ⟨if_pos hout, hout.1, .inr rfl⟩)))
  · exact .inl ⟨_, if_neg hout⟩

theorem ends_of_writeBack {s : State} {i : Instr} {d : Reg} {v : Byte} (h : exec i s = s.writeBack d v) :
    EndsAsSpecified s i := by
  refine CompletesOrWraps.ends ?_
  rw [h]
  exact State.writeBack_completesOrWraps rfl rfl d v

theorem ends_of_jumpIf {s : State} {i : Instr} {c : Bool} {x : Byte} (h : exec i s = s.jumpIf c x) :
    EndsAsSpecified s i := by
  refine CompletesOrWraps.ends ?_
  rw [h]
  exact s.jumpIf_completesOrWraps c x

/-- Every well-formed instruction ends in one of the ways of R151. -/
theorem exec_ends {s : State} {i : Instr} (hwf : i.wf s.cfg = true) : EndsAsSpecified s i := by
  cases i with
  | and | ror | add | xor | or | rol | sub =>
    simp only [Instr.wf, Bool.and_eq_true] at hwf
    obtain ⟨⟨ha, hb⟩, hd⟩ := hwf
    exact ends_of_writeBack (State.alu_of_wf _ ha hb hd)
  | not =>
    simp only [Instr.wf, Bool.and_eq_true] at hwf
    exact ends_of_writeBack (execNot_of_wf hwf.1 hwf.2)
  | jmp => exact .inl ⟨_, execJmp_eq hwf⟩
  | jne | jge | jgt | jeq | jlt | jle =>
    simp only [Instr.wf, Bool.and_eq_true] at hwf
    obtain ⟨⟨ha, hb⟩, hx⟩ := hwf
    exact ends_of_jumpIf (State.compareJump_of_wf _ ha hb hx)
  | nop | hcf => exact CompletesOrWraps.ends (State.advance_completesOrWraps rfl rfl)
  | mov =>
    simp only [Instr.wf, Bool.and_eq_true] at hwf
    exact ends_of_writeBack (execMov_of_wf hwf.1 hwf.2)
  | swap =>
    simp only [Instr.wf, Bool.and_eq_true] at hwf
    exact CompletesOrWraps.ends (execSwap_completesOrWraps hwf.1 hwf.2)
  | push => exact execPush_ends hwf
  | pop => exact execPop_ends hwf
  | wrt =>
    simp only [Instr.wf, Bool.and_eq_true] at hwf
    exact execWrt_ends hwf.1 hwf.2
  | call => exact execCall_ends hwf
  | jre => exact execJre_ends s

/-- Settles O40: by the instruction's meaning where no field check stops it. -/
theorem faultsAreOnlyThese : Obligations.FaultsAreOnlyThese := by
  unfold Obligations.FaultsAreOnlyThese
  exact fun s i hwf => exec_ends hwf

end Sys2Proof.Machine


/-! ## Two machines that differ in what an instruction does not see -/

namespace Sys2Proof.Machine
open Sys2Proof.Claims

/-- Two results of the same kind: next states related by `R`, or the same fault or refusal. -/
inductive Related (R : State → State → Prop) : Result → Result → Prop
  | next {s t : State} : R s t → Related R (.next s) (.next t)
  | fault (f : Fault) : Related R (.fault f) (.fault f)
  | refused (e : Refusal) : Related R (.refused e) (.refused e)

/-- A relation the updates of an instruction keep, and whose two states agree on all an instruction looks at beside the
registers it reads as sources: `pc`, `r4`, the stack and the policies of `exec`. -/
structure Simulation (R : State → State → Prop) : Prop where
  writeReg : ∀ {s t}, R s t → ∀ a4 r v, R (s.writeReg a4 r v) (t.writeReg a4 r v)
  setStack : ∀ {s t}, R s t → ∀ l, R (s.setStack l) (t.setStack l)
  setHalted : ∀ {s t}, R s t → ∀ b, R (s.setHalted b) (t.setHalted b)
  emit : ∀ {s t}, R s t → ∀ e, R (s.emit e) (t.emit e)
  pc : ∀ {s t}, R s t → s.pc = t.pc
  r4 : ∀ {s t}, R s t → s.r4 = t.r4
  stack : ∀ {s t}, R s t → s.stack = t.stack
  pcWrap : ∀ {s t}, R s t → s.cfg.pcWrap = t.cfg.pcWrap
  r6 : ∀ {s t}, R s t → s.cfg.r6 = t.cfg.r6
  stackDepth : ∀ {s t}, R s t → s.cfg.stackDepth = t.cfg.stackDepth
  notKind : ∀ {s t}, R s t → s.cfg.notKind = t.cfg.notKind
  wrtFmt : ∀ {s t}, R s t → s.cfg.wrtFmt = t.cfg.wrtFmt

theorem value_congr {s t : State} {o : Operand} (h : ∀ r ∈ usedRegs.operand o, s.readReg r = t.readReg r) :
    s.value o = t.value o := by
  cases o with
  | imm v => rfl
  | reg r => exact h r (List.mem_singleton_self r)

theorem target_congr {s t : State} {x : Target} (h : ∀ r ∈ usedRegs.target x, s.readReg r = t.readReg r) :
    s.target x = t.target x := by
  cases x with
  | reg r => exact h r (List.mem_singleton_self r)
  | literal n => rfl
  | op1 o => exact value_congr h

namespace Simulation

variable {R : State → State → Prop} {s t : State}

theorem setPc (sim : Simulation R) (h : R s t) (v : Byte) : R (s.setPc v) (t.setPc v) := sim.writeReg h v .r7 v

theorem nextPc (sim : Simulation R) (h : R s t) : s.nextPc = t.nextPc := congrArg (· + 1) (sim.pc h)

theorem advance (sim : Simulation R) (h : R s t) : Related R s.advance t.advance := by
  rw [State.advance, State.advance, sim.pcWrap h, sim.pc h, sim.nextPc h]
  split
  · exact .fault _
  · exact .next (sim.setPc h _)

theorem guard (sim : Simulation R) (h : R s t) (used : List (RegField × Reg)) {k k' : Result} (hk : Related R k k') :
    Related R (s.guard used k) (t.guard used k') := by
  have hallowed (r : Reg) : r.allowed s.cfg = r.allowed t.cfg := by rw [Reg.allowed, Reg.allowed, sim.r6 h]
  simp only [State.guard, hallowed]
  split
  · exact .fault _
  · exact hk

theorem writeBack (sim : Simulation R) (h : R s t) (d : Reg) (v : Byte) :
    Related R (s.writeBack d v) (t.writeBack d v) := by
  rw [State.writeBack, State.writeBack, sim.r4 h]
  split
  · exact .next (sim.setPc h v)
  · exact sim.advance (sim.writeReg h _ d v)

theorem jumpIf (sim : Simulation R) (h : R s t) (c : Bool) (x : Byte) : Related R (s.jumpIf c x) (t.jumpIf c x) := by
  cases c with
  | true => exact .next (sim.setPc h x)
  | false => exact sim.advance h

theorem push (sim : Simulation R) (h : R s t) (v : Byte) {k k' : State → Result}
    (hk : ∀ {u u'}, R u u' → Related R (k u) (k' u')) : Related R (s.push v k) (t.push v k') := by
  have hfull : s.stackFull = t.stackFull := by rw [State.stackFull, State.stackFull, sim.stackDepth h, sim.stack h]
  rw [State.push, State.push, hfull, sim.stack h]
  split
  · exact .fault _
  · exact hk (sim.setStack h _)

theorem pop (sim : Simulation R) (h : R s t) {k k' : Byte → State → Result}
    (hk : ∀ v {u u'}, R u u' → Related R (k v u) (k' v u')) : Related R (s.pop k) (t.pop k') := by
  rw [State.pop, State.pop, sim.stack h]
  split
  · exact .fault _
  · exact hk _ (sim.setStack h _)

theorem alu (sim : Simulation R) (h : R s t) (f : Byte → Byte → Byte) {a b : Operand} (d : Reg)
    (hreads : ∀ r ∈ usedRegs.operand a ++ usedRegs.operand b, s.readReg r = t.readReg r) :
    Related R (s.alu f a b d) (t.alu f a b d) := by
  rw [State.alu, State.alu, value_congr fun r hr => hreads r (List.mem_append_left _ hr),
    value_congr fun r hr => hreads r (List.mem_append_right _ hr)]
  exact sim.guard h _ (sim.writeBack h d _)

theorem compareJump (sim : Simulation R) (h : R s t) (c : Byte → Byte → Bool) {a b : Operand} {x : Target}
    (hreads : ∀ r ∈ usedRegs.operand a ++ usedRegs.operand b ++ usedRegs.target x, s.readReg r = t.readReg r) :
    Related R (s.compareJump c a b x) (t.compareJump c a b x) := by
  simp only [List.mem_append] at hreads
  rw [State.compareJump, State.compareJump, value_congr fun r hr => hreads r (.inl (.inl hr)),
    value_congr fun r hr => hreads r (.inl (.inr hr)), target_congr fun r hr => hreads r (.inr hr)]
  exact sim.guard h _ (sim.jumpIf h _ _)

theorem execSwap (sim : Simulation R) (h : R s t) {a d : Reg} (hreads : ∀ r ∈ [a, d], s.readReg r = t.readReg r) :
    Related R (Machine.execSwap a d s) (Machine.execSwap a d t) := by
  have ha : s.readReg a = t.readReg a := hreads a (by simp)
  have hd : s.readReg d = t.readReg d := hreads d (by simp)
  have swapped := sim.writeReg (sim.writeReg h t.r4 a (t.readReg d)) t.r4 d (t.readReg a)
  rw [Machine.execSwap, Machine.execSwap, sim.r4 h, ha, hd]
  refine sim.guard h _ ?_
  split
  · exact .next swapped
  · exact sim.advance swapped

theorem execWrt (sim : Simulation R) (h : R s t) {a b : Operand}
    (hreads : ∀ r ∈ usedRegs.operand a ++ usedRegs.operand b, s.readReg r = t.readReg r) :
    Related R (Machine.execWrt a b s) (Machine.execWrt a b t) := by
  rw [Machine.execWrt, Machine.execWrt, sim.wrtFmt h, value_congr fun r hr => hreads r (List.mem_append_left _ hr),
    value_congr fun r hr => hreads r (List.mem_append_right _ hr)]
  refine sim.guard h _ ?_
  split
  · exact .fault _
  · exact sim.advance (sim.emit h _)

theorem execJre (sim : Simulation R) (h : R s t) (hsum : jreSum s.pcValue s.r0 = jreSum t.pcValue t.r0) :
    Related R (Machine.execJre s) (Machine.execJre t) := by
  simp only [Machine.execJre, sim.pcWrap h, hsum]
  split
  · exact .fault _
  · exact .next (sim.setPc h _)

/-- An instruction does alike in related states that agree on the registers it reads as sources, and for `JRE` on its sum. -/
theorem exec (sim : Simulation R) (h : R s t) {i : Instr} (hreads : ∀ r ∈ sources i, s.readReg r = t.readReg r)
    (hjre : i = .jre → jreSum s.pcValue s.r0 = jreSum t.pcValue t.r0) :
    Related R (Machine.exec i s) (Machine.exec i t) := by
  cases i with
  | and | ror | add | xor | or | rol | sub => exact sim.alu h _ _ hreads
  | not a d =>
    simp only [Machine.exec, Machine.execNot, sim.notKind h, value_congr hreads]
    exact sim.guard h _ (sim.writeBack h d _)
  | jmp x =>
    simp only [Machine.exec, Machine.execJmp, target_congr hreads]
    exact sim.guard h _ (sim.jumpIf h _ _)
  | jne | jge | jgt | jeq | jlt | jle => exact sim.compareJump h _ hreads
  | nop => exact sim.advance h
  | mov a d =>
    simp only [Machine.exec, Machine.execMov, value_congr hreads]
    exact sim.guard h _ (sim.writeBack h d _)
  | swap => exact sim.execSwap h hreads
  | push a =>
    simp only [Machine.exec, Machine.execPush, value_congr hreads]
    exact sim.guard h _ (sim.push h _ sim.advance)
  | pop d => exact sim.guard h _ (sim.pop h fun v _ _ hu => sim.writeBack hu d v)
  | wrt => exact sim.execWrt h hreads
  | call a =>
    simp only [Machine.exec, Machine.execCall, value_congr hreads, sim.nextPc h]
    exact sim.guard h _ (sim.push h _ fun hu => .next (sim.setPc hu _))
  | jre => exact sim.execJre h (hjre rfl)
  | hcf => exact sim.advance (sim.setHalted h true)

end Simulation

/-! ### The terminal (D18) -/

/-- `t` is `s` with another terminal, which began as `l` where that of `s` began as `l₀` and got the same events since. -/
def SameButTerm (l₀ l : List TermEvent) (s t : State) : Prop :=
  ∃ es, s.term = l₀ ++ es ∧ t = s.setTerm (l ++ es)

theorem simulation_sameButTerm (l₀ l : List TermEvent) : Simulation (SameButTerm l₀ l) where
  writeReg := by
    rintro s _ ⟨es, hterm, rfl⟩ a4 r v
    exact ⟨es, (s.writeReg_term a4 r v).trans hterm, by cases r <;> rfl⟩
  setStack := by
    rintro s _ ⟨es, hterm, rfl⟩ _
    exact ⟨es, hterm, rfl⟩
  setHalted := by
    rintro s _ ⟨es, hterm, rfl⟩ _
    exact ⟨es, hterm, rfl⟩
  emit := by
    rintro s _ ⟨es, hterm, rfl⟩ e
    refine ⟨es ++ [e], ?_, ?_⟩
    · simp [State.emit, hterm]
    · simp only [State.emit, State.setTerm_term, List.append_assoc]
      rfl
  pc := by rintro s _ ⟨es, -, rfl⟩; rfl
  r4 := by rintro s _ ⟨es, -, rfl⟩; rfl
  stack := by rintro s _ ⟨es, -, rfl⟩; rfl
  pcWrap := by rintro s _ ⟨es, -, rfl⟩; rfl
  r6 := by rintro s _ ⟨es, -, rfl⟩; rfl
  stackDepth := by rintro s _ ⟨es, -, rfl⟩; rfl
  notKind := by rintro s _ ⟨es, -, rfl⟩; rfl
  wrtFmt := by rintro s _ ⟨es, -, rfl⟩; rfl

/-- No register reads the terminal (R16, R26). -/
theorem readReg_setTerm (s : State) (l : List TermEvent) (r : Reg) : (s.setTerm l).readReg r = s.readReg r := by
  cases r <;> rfl

/-- A step does alike whatever the terminal held. -/
theorem step_setTerm_related (s : State) (l : List TermEvent) :
    Related (SameButTerm s.term l) (step s) (step (s.setTerm l)) := by
  have start : SameButTerm s.term l s (s.setTerm l) := ⟨[], (List.append_nil _).symm, by rw [List.append_nil]⟩
  have hfetch : (s.setTerm l).fetch = s.fetch := rfl
  rw [step, step, State.setTerm_halted, hfetch, State.setTerm_cfg]
  split
  · exact .next start
  · split
    · exact .fault _
    · split
      · exact .fault _
      · exact (simulation_sameButTerm s.term l).exec start (fun r _ => (readReg_setTerm s l r).symm) fun _ => rfl

/-- No step refuses: a decoded instruction is well formed, and those complete or fault. -/
theorem step_not_refused (s : State) (e : Refusal) : step s ≠ .refused e := by
  intro h
  unfold step at h
  split at h
  · cases h
  · split at h
    · cases h
    · split at h
      · cases h
      · have hwf := decodedIsWellFormed _ _ _ ‹decode s.cfg _ = .ok _›
        rcases exec_ends hwf with ⟨t, he⟩ | ⟨he, -⟩ | ⟨he, -⟩ | ⟨a, b, -, he, -⟩ | ⟨he, -⟩ <;> cases he.symm.trans h

/-- Settles O43: the step relates states that differ in the terminal only, and none refuses. -/
theorem terminalIsUnobservable : Obligations.TerminalIsUnobservable := by
  unfold Obligations.TerminalIsUnobservable
  intro s l
  have related := step_setTerm_related s l
  refine ⟨fun t ht => ?_, fun f hf => ?_, step_not_refused s⟩
  · rw [ht] at related
    generalize step (s.setTerm l) = r at related
    cases related with
    | next h =>
      obtain ⟨es, hterm, rfl⟩ := h
      exact ⟨es, hterm, rfl⟩
  · rw [hf] at related
    generalize step (s.setTerm l) = r at related
    cases related
    rfl

/-! ### `PC_READ` (D7) and `JUMP_TARGET` (D9) -/

theorem Related.follows {g : State → State} {r r' : Result} (h : Related (fun s t => t = g s) r r') : Follows g r r' := by
  cases h with
  | next h => exact congrArg Host.Outcome.next h
  | fault | refused => rfl

/-- `g` changes parameters `exec` looks at nowhere but in the value of a register. -/
structure KeepsPolicies (g : Config → Config) : Prop where
  pcWrap : ∀ c, c.pcWrap = (g c).pcWrap
  r6 : ∀ c, c.r6 = (g c).r6
  stackDepth : ∀ c, c.stackDepth = (g c).stackDepth
  notKind : ∀ c, c.notKind = (g c).notKind
  wrtFmt : ∀ c, c.wrtFmt = (g c).wrtFmt

theorem KeepsPolicies.simulation {g : Config → Config} (keeps : KeepsPolicies g) :
    Simulation fun s t => t = s.setCfg (g s.cfg) where
  writeReg := by rintro s _ rfl a4 r v; cases r <;> rfl
  setStack := by rintro s _ rfl l; rfl
  setHalted := by rintro s _ rfl b; rfl
  emit := by rintro s _ rfl e; rfl
  pc := by rintro s _ rfl; rfl
  r4 := by rintro s _ rfl; rfl
  stack := by rintro s _ rfl; rfl
  pcWrap := by rintro s _ rfl; exact keeps.pcWrap _
  r6 := by rintro s _ rfl; exact keeps.r6 _
  stackDepth := by rintro s _ rfl; exact keeps.stackDepth _
  notKind := by rintro s _ rfl; exact keeps.notKind _
  wrtFmt := by rintro s _ rfl; exact keeps.wrtFmt _

theorem keepsPolicies_pcRead (p : PcRead) : KeepsPolicies fun c => { c with pcRead := p } :=
  ⟨fun _ => rfl, fun _ => rfl, fun _ => rfl, fun _ => rfl, fun _ => rfl⟩

theorem keepsPolicies_jumpTarget (j : JumpTarget) : KeepsPolicies fun c => { c with jumpTarget := j } :=
  ⟨fun _ => rfl, fun _ => rfl, fun _ => rfl, fun _ => rfl, fun _ => rfl⟩

/-- `PC_READ` is looked at in a read of `r7` only (R20). -/
theorem readReg_setPcRead (s : State) (p : PcRead) {r : Reg} (hr : r ≠ .r7) :
    s.readReg r = (s.setCfg { s.cfg with pcRead := p }).readReg r := by
  cases r with
  | r7 => exact absurd rfl hr
  | r0 | r1 | r2 | r3 | r4 | r5 | r6 => rfl

/-- Settles O42: without `r7` among its sources the instruction reads the same, and the rest of its meaning sees no `PC_READ`. -/
theorem pcReadMattersOnlyToReaders : Obligations.PcReadMattersOnlyToReaders := by
  unfold Obligations.PcReadMattersOnlyToReaders
  intro s i p h7 hjre
  exact ((keepsPolicies_pcRead p).simulation.exec rfl
    (fun r hr => readReg_setPcRead s p fun e => h7 (e ▸ hr)) fun e => absurd e hjre).follows

/-- The state under another value of `JUMP_TARGET`. -/
def State.withJumpTarget (s : State) (j : JumpTarget) : State := s.setCfg { s.cfg with jumpTarget := j }

/-- No read of a register looks at `JUMP_TARGET` (R16, R101). -/
theorem readReg_withJumpTarget (s : State) (j : JumpTarget) (r : Reg) :
    s.readReg r = (s.withJumpTarget j).readReg r := by
  cases r <;> rfl

/-- What a step does with what it decoded (R172). -/
def runDecoded (s : State) (d : Except DecodeError Instr) : Result :=
  match d with
  | .error e => .fault (faultOfDecode e)
  | .ok i => exec i s

theorem step_of_fetch {s : State} {w : InstrBytes} (hrun : s.halted = false) (hfetch : s.fetch = some w) :
    step s = runDecoded s (decode s.cfg w) := by
  simp only [step, hrun, hfetch, Bool.false_eq_true, if_false]
  cases decode s.cfg w <;> rfl

/-- The parameters `c` with the literal reading of a jump's DEST (R101). -/
def literalReading (c : Config) : Config := { c with jumpTarget := .destLiteral }

/-- In the state `s`, the readings of the `COND` word `w` agree: its DEST names an allowed register that holds the DEST byte, and
so does operand 1 where `JMP` reads that (R101, D9). -/
structure ReadingsAgree (s : State) (w : InstrBytes) : Prop where
  dest : ∃ r, decodeDest s.cfg w = .ok r ∧ r.allowed s.cfg = true ∧ s.readReg r = w.b3
  op1 : s.cfg.jumpTarget = .op1Value → row w.b0 = 8 → ∃ o, decodeOp1 s.cfg w = .ok o ∧ s.value o = w.b3

namespace ReadingsAgree

variable {s : State} {w : InstrBytes}

/-- The target of a comparing jump acts like the DEST byte. -/
theorem decodeTarget (h : ReadingsAgree s w) :
    ∃ x, Sys2Proof.decodeTarget s.cfg w = .ok x ∧ s.TargetsAlike x (.literal w.b3) := by
  obtain ⟨r, hdec, hr, hread⟩ := h.dest
  rw [Sys2Proof.decodeTarget, hdec]
  cases s.cfg.jumpTarget with
  | destLiteral => exact ⟨_, rfl, fun _ => rfl, rfl⟩
  | destRegister | op1Value => exact ⟨_, rfl, .reg_literal hr hread⟩

/-- The target of `JMP` acts like the DEST byte. -/
theorem decodeJmpTarget (h : ReadingsAgree s w) (h8 : row w.b0 = 8) :
    ∃ x, Sys2Proof.decodeJmpTarget s.cfg w = .ok x ∧ s.TargetsAlike x (.literal w.b3) := by
  obtain ⟨r, hdec, hr, hread⟩ := h.dest
  have hop1 := h.op1
  rw [Sys2Proof.decodeJmpTarget, hdec]
  cases hj : s.cfg.jumpTarget with
  | destLiteral => exact ⟨_, rfl, fun _ => rfl, rfl⟩
  | destRegister => exact ⟨_, rfl, .reg_literal hr hread⟩
  | op1Value =>
    obtain ⟨o, ho, hval⟩ := hop1 hj h8
    rw [ho]
    exact ⟨_, rfl, .op1_literal (decodeOperand_wf ho) hval⟩

/-- A comparing jump does the same as under the literal reading. -/
theorem run_compare (h : ReadingsAgree s w) {mk : Operand → Operand → Target → Instr} {sub : Nat}
    (jump : ComparingJump mk sub) :
    runDecoded s (decodeOpOpTarget s.cfg w mk) = runDecoded s (decodeOpOpTarget (literalReading s.cfg) w mk) := by
  obtain ⟨x, hx, alike⟩ := h.decodeTarget
  have ho1 : decodeOp1 (literalReading s.cfg) w = decodeOp1 s.cfg w := rfl
  have ho2 : decodeOp2 (literalReading s.cfg) w = decodeOp2 s.cfg w := rfl
  have hlit : Sys2Proof.decodeTarget (literalReading s.cfg) w = .ok (.literal w.b3) := rfl
  rw [decodeOpOpTarget, decodeOpOpTarget, ho1, ho2, hlit, hx]
  cases decodeOp1 s.cfg w with
  | error e => rfl
  | ok a =>
    cases decodeOp2 s.cfg w with
    | error e => rfl
    | ok b =>
      calc exec (mk a b x) s
        _ = _ := jump.exec s a b x
        _ = _ := alike.compareJump _ a b
        _ = exec (mk a b (.literal w.b3)) s := (jump.exec s a b _).symm

theorem run_jmp (h : ReadingsAgree s w) (h8 : row w.b0 = 8) :
    runDecoded s ((Sys2Proof.decodeJmpTarget s.cfg w).map .jmp) =
      runDecoded s ((Sys2Proof.decodeJmpTarget (literalReading s.cfg) w).map .jmp) := by
  obtain ⟨x, hx, alike⟩ := h.decodeJmpTarget h8
  rw [hx]
  exact alike.execJmp

/-- A `COND` word whose readings agree does the same as under the literal reading. -/
theorem run_eq_literal (h : ReadingsAgree s w) (hclass : classOf w.b0 = 1) :
    runDecoded s (decode s.cfg w) = runDecoded s (decode (literalReading s.cfg) w) := by
  have hcond (c : Config) : decode c w =
      if rsvBit w.b0 && c.bit7 == .fault then .error (.illegalInstruction .bit7) else decodeCond c w := by
    rw [decode, hclass]
    rfl
  have hbit7 : (literalReading s.cfg).bit7 = s.cfg.bit7 := rfl
  rw [hcond, hcond, hbit7]
  split
  · rfl
  · rcases decodeCond_cases s.cfg w with ⟨hsub, hjmp⟩ | ⟨hsub, hnop⟩ | ⟨mk, jump, hmk⟩
    · have h8 : row w.b0 = 8 := by rw [row_eq_class_sub, hclass, hsub]; rfl
      have hlit : decodeCond (literalReading s.cfg) w =
        (Sys2Proof.decodeJmpTarget (literalReading s.cfg) w).map .jmp := by simp only [decodeCond, hsub]
      rw [hjmp, hlit]
      exact h.run_jmp h8
    · have hlit : decodeCond (literalReading s.cfg) w = .ok .nop := by simp only [decodeCond, hsub]
      rw [hnop, hlit]
    · rw [hmk, jump.row _ w rfl]
      exact h.run_compare jump

end ReadingsAgree

/-- Running one decoded word is the same under two values of `JUMP_TARGET` but for that parameter. -/
theorem runDecoded_withJumpTarget (s : State) (j : JumpTarget) (d : Except DecodeError Instr) :
    Follows (fun t => t.withJumpTarget j) (runDecoded s d) (runDecoded (s.withJumpTarget j) d) := by
  cases d with
  | error e => rfl
  | ok i =>
    exact ((keepsPolicies_jumpTarget j).simulation.exec rfl (fun r _ => readReg_withJumpTarget s j r) fun _ => rfl).follows

/-- Settles O48: under either value the word does what it does under the literal reading. -/
theorem jumpReadingsAgreeOnAWord : Obligations.JumpReadingsAgreeOnAWord := by
  unfold Obligations.JumpReadingsAgreeOnAWord
  intro s w r j hfetch hclass hreg hr hread hop1
  have hdest : decodeDest s.cfg w = .ok r := by simp [decodeDest, decodeReg, hreg, hr]
  have agree : ReadingsAgree s w := ⟨⟨r, hdest, hr, hread⟩, fun hj h8 => hop1 h8 (.inl hj)⟩
  have agree' : ReadingsAgree (s.withJumpTarget j) w := by
    refine ⟨⟨r, hdest, hr, (readReg_withJumpTarget s j r).symm.trans hread⟩, fun hj h8 => ?_⟩
    obtain ⟨o, ho, hval⟩ := hop1 h8 (.inr hj)
    exact ⟨o, ho, (value_congr fun r _ => readReg_withJumpTarget s j r).symm.trans hval⟩
  change Follows (fun t => t.withJumpTarget j) (step s) (step (s.withJumpTarget j))
  have hhalted : (s.withJumpTarget j).halted = s.halted := rfl
  have hfetch' : (s.withJumpTarget j).fetch = some w := hfetch
  cases hrun : s.halted with
  | true =>
    rw [step, step, if_pos hrun, if_pos (hhalted.trans hrun)]
    rfl
  | false =>
    rw [step_of_fetch hrun hfetch, step_of_fetch (hhalted.trans hrun) hfetch', agree.run_eq_literal hclass,
      agree'.run_eq_literal hclass]
    exact runDecoded_withJumpTarget s j _

end Sys2Proof.Machine


/-! ## Reset, the step, and the end of a run -/

namespace Sys2Proof.Machine
open Sys2Proof.Claims

/-- What reset leaves, but for the registers that `RESET_REGS` decides (R30). -/
theorem launch_fields (c : Config) (p : List InstrBytes) :
    (State.launch c p).ram = [] ∧ (State.launch c p).pc = c.resetPc ∧ (State.launch c p).stack = [] ∧
    (State.launch c p).term = [] ∧ (State.launch c p).halted = false ∧ (State.launch c p).prog = p ∧
    (State.launch c p).cfg = c := by
  unfold State.launch
  split <;> exact ⟨rfl, rfl, rfl, rfl, rfl, rfl, rfl⟩

/-- After reset RAM reads zero at every address (R30). -/
theorem launch_ram_read (c : Config) (p : List InstrBytes) (a : Nat) : (State.launch c p).ram.read a = 0x00 := by
  rw [(launch_fields c p).1]
  rfl

/-- The registers after reset, by `RESET_REGS` (R30). -/
theorem launch_regs_zero {c : Config} (h : c.resetRegs = .zero) (p : List InstrBytes) :
    (State.launch c p).r0 = 0 ∧ (State.launch c p).r1 = 0 ∧ (State.launch c p).r2 = 0 ∧ (State.launch c p).r3 = 0 ∧
    (State.launch c p).r4 = 0 := by
  unfold State.launch
  rw [h]
  exact ⟨rfl, rfl, rfl, rfl, rfl⟩

theorem launch_regs_undef {c : Config} {d0 d1 d2 d3 d4 : Byte} (h : c.resetRegs = .undef d0 d1 d2 d3 d4)
    (p : List InstrBytes) :
    (State.launch c p).r0 = d0 ∧ (State.launch c p).r1 = d1 ∧ (State.launch c p).r2 = d2 ∧ (State.launch c p).r3 = d3 ∧
    (State.launch c p).r4 = d4 := by
  unfold State.launch
  rw [h]
  exact ⟨rfl, rfl, rfl, rfl, rfl⟩

/-- Settles O10: what `State.launch` leaves, also as a restart and as the reset state. -/
theorem resetLeaves : Obligations.ResetLeaves := by
  unfold Obligations.ResetLeaves
  refine ⟨fun c p => ?_, fun s => ?_, rfl, rfl, rfl, rfl, rfl, rfl, rfl⟩
  · obtain ⟨-, hpc, hstack, hterm, hhalted, hprog, hcfg⟩ := launch_fields c p
    exact ⟨launch_ram_read c p, hpc, hstack, hterm, hhalted, hprog, hcfg, fun h => launch_regs_zero h p,
      fun _ _ _ _ _ h => launch_regs_undef h p⟩
  · obtain ⟨-, hpc, hstack, hterm, hhalted, hprog, hcfg⟩ := launch_fields s.cfg s.prog
    exact ⟨rfl, launch_ram_read s.cfg s.prog, hpc, hstack, hterm, hhalted, hprog, hcfg⟩

/-- Settles O11: fetch and decode, then `exec` and nothing more. -/
theorem stepRunsDecodedInstruction : Obligations.StepRunsDecodedInstruction := by
  unfold Obligations.StepRunsDecodedInstruction
  intro s w i hrun hfetch hdec
  rw [step_of_fetch hrun hfetch, hdec]
  rfl

/-- Settles O12: the three steps that reach no instruction. -/
theorem stepWithoutInstruction : Obligations.StepWithoutInstruction := by
  unfold Obligations.StepWithoutInstruction
  refine ⟨fun s hhalted => if_pos hhalted, fun s hrun hlen => ?_, fun s w e hrun hfetch hdec => ?_⟩
  · have hnone : s.fetch = none := List.getElem?_eq_none hlen
    simp [step, hrun, hnone]
  · rw [step_of_fetch hrun hfetch, hdec]
    cases e <;> rfl

/-- The next slot, as a number (R20). -/
theorem nextPc_toNat (s : State) : s.nextPc.toNat = (s.pc.toNat + 1) % 256 := BitVec.toNat_add s.pc 1

/-- Settles O13: `r7` reads by `PC_READ`, every other register as it stands. -/
theorem registerReads : Obligations.RegisterReads := by
  unfold Obligations.RegisterReads
  intro s
  refine ⟨rfl, rfl, rfl, rfl, rfl, rfl, rfl, fun h => ?_, fun h => ?_⟩
  · rw [State.readReg, State.pcValue, h]
    exact nextPc_toNat s
  · rw [State.readReg, State.pcValue, h]

/-- Settles O44: RAM and stack are empty after reset, and the program is the one loaded. -/
theorem invariantAtReset : Obligations.InvariantAtReset := by
  unfold Obligations.InvariantAtReset
  have launch (c : Config) (p : List InstrBytes) (hp : p.length ≤ 256) : (State.launch c p).Inv := by
    obtain ⟨hram, -, hstack, -, -, hprog, -⟩ := launch_fields c p
    refine ⟨by rw [hram]; exact Memory.wf_nil, by rw [hprog]; exact hp, fun depth _ => ?_⟩
    rw [hstack]
    exact Nat.zero_le depth
  exact ⟨launch, launch Config.default [] (Nat.zero_le _)⟩

/-! ### The end of a run (R173) -/

/-- A halted machine goes on in the same state for any number of steps (R27, log 8). -/
theorem runFrom_of_halted {s : State} (h : s.halted = true) (k : Nat) : runFrom k s = .next s := by
  induction k with
  | zero => rfl
  | succ k ih =>
    have hstep : step s = .next s := if_pos h
    rw [runFrom, hstep]
    exact ih

/-- A run of `j + k` steps that has not stopped after `j` goes on from where it was. -/
theorem runFrom_add_of_next {j : Nat} {s t : State} (h : runFrom j s = .next t) (k : Nat) :
    runFrom (j + k) s = runFrom k t := by
  induction j generalizing s with
  | zero =>
    cases h
    rw [Nat.zero_add]
  | succ j ih =>
    rw [Nat.add_right_comm]
    rw [runFrom] at h ⊢
    cases hstep : step s with
    | next u =>
      rw [hstep] at h
      exact ih h
    | fault | refused =>
      rw [hstep] at h
      cases h

/-- A run that faulted after `j` steps stays faulted. -/
theorem runFrom_add_of_fault {j : Nat} {s : State} {f : Fault} (h : runFrom j s = .fault f) (k : Nat) :
    runFrom (j + k) s = .fault f := by
  induction j generalizing s with
  | zero => cases h
  | succ j ih =>
    rw [Nat.add_right_comm]
    rw [runFrom] at h ⊢
    cases hstep : step s with
    | next u =>
      rw [hstep] at h
      exact ih h
    | fault | refused =>
      rw [hstep] at h
      exact h

/-- No run ends in a refusal. -/
theorem runFrom_not_refused (k : Nat) (s : State) (e : Refusal) : runFrom k s ≠ .refused e := by
  induction k generalizing s with
  | zero => nofun
  | succ k ih =>
    rw [runFrom]
    cases hstep : step s with
    | next t => exact ih t
    | fault => nofun
    | refused e => exact absurd hstep (step_not_refused s e)

/-- A run that reaches a halted state reaches it whatever fault it is held to end with. -/
theorem not_halted_and_faulted {s : State} {f : Fault} (hhalt : EndsHalted s) (hfault : EndsFaulted s f) : False := by
  obtain ⟨j, t, hj, ht⟩ := hhalt
  obtain ⟨k, hk⟩ := hfault
  have hlate := runFrom_add_of_next hj k
  rw [runFrom_of_halted ht, Nat.add_comm, runFrom_add_of_fault hk] at hlate
  cases hlate

theorem not_halted_and_never {s : State} (hhalt : EndsHalted s) (hnever : NeverEnds s) : False := by
  obtain ⟨j, t, hj, ht⟩ := hhalt
  obtain ⟨u, hu, hrun⟩ := hnever j
  cases hj.symm.trans hu
  cases ht.symm.trans hrun

theorem not_faulted_and_never {s : State} {f : Fault} (hfault : EndsFaulted s f) (hnever : NeverEnds s) : False := by
  obtain ⟨k, hk⟩ := hfault
  obtain ⟨u, hu, -⟩ := hnever k
  cases hk.symm.trans hu

theorem endsFaulted_unique {s : State} {f g : Fault} (hf : EndsFaulted s f) (hg : EndsFaulted s g) : f = g := by
  obtain ⟨j, hj⟩ := hf
  obtain ⟨k, hk⟩ := hg
  have hlate := runFrom_add_of_fault hj k
  rw [Nat.add_comm, runFrom_add_of_fault hk] at hlate
  cases hlate
  rfl

/-- A run that does not go on forever without halting has halted or faulted. -/
theorem ends_of_not_never {s : State} (h : ¬NeverEnds s) : EndsHalted s ∨ ∃ f, EndsFaulted s f := by
  obtain ⟨k, hk⟩ := not_forall.mp h
  cases hrun : runFrom k s with
  | next t =>
    refine .inl ⟨k, t, hrun, ?_⟩
    by_contra ht
    exact hk ⟨t, hrun, Bool.eq_false_iff.mpr ht⟩
  | fault f => exact .inr ⟨f, k, hrun⟩
  | refused e => exact absurd hrun (runFrom_not_refused k s e)

/-- Settles O46: halted and faulted runs stay so, and a run that is neither never ends. -/
theorem runEndsInExactlyOneWay : Obligations.RunEndsInExactlyOneWay := by
  unfold Obligations.RunEndsInExactlyOneWay
  intro s
  refine ⟨?_, fun ⟨hhalt, _, hfault⟩ => not_halted_and_faulted hhalt hfault,
    fun ⟨hhalt, hnever⟩ => not_halted_and_never hhalt hnever,
    fun ⟨⟨_, hfault⟩, hnever⟩ => not_faulted_and_never hfault hnever, fun _ _ => endsFaulted_unique⟩
  by_cases hnever : NeverEnds s
  · exact .inr (.inr hnever)
  · exact (ends_of_not_never hnever).imp_right .inl

end Sys2Proof.Machine
